-- ==== Sys2Proof/Word.lean ====
section
/-! DEFINITION. The two bit-vector types of the block: a byte (every register, field and pattern of at most 8 bits) and a command word. -/

namespace Sys2Proof

/-- Eight bits: an index register, a command field, a line pattern, a cell value (R21, R30, R100). -/
abbrev Byte := BitVec 8

/-- A command word `CMD32` on the port `cmd` (R100). -/
abbrev CmdWord := BitVec 32

end Sys2Proof
end

