-- ==== Sys2Proof/Syntax.lean ====
section
/-! DEFINITION. The three commands of the block (R2, R108), one constructor per row of the opcode table. -/

namespace Sys2Proof

/-- A command with its operands as the word carries them, 8-bit unsigned (R100, R105, R111). -/
inductive Instr where
  /-- `INIT` (R130) -/
  | init
  /-- `READ row, col` (R160) -/
  | read (row col : Byte)
  /-- `WRITE row, col, value` (R140) -/
  | write (row col value : Byte)
deriving DecidableEq, Repr

end Sys2Proof
end

