-- ==== Sys2Proof/Decode.lean ====
section
/-! DEFINITION. Command words: the fields of `CMD32` (R100), the total decoder (R103), the reserved words by name (R109) and the encoder (R103). -/

namespace Sys2Proof

/-- Why a word is reserved (R109). -/
inductive ReservedWord where
  /-- `op = 0b11` -/
  | reservedOp
  /-- the field `zero` is not 0 -/
  | zeroField
  /-- a field the command does not use is not 0 -/
  | unusedField
deriving DecidableEq, Repr

/-- What a command word is: one of the three commands or reserved (R103). -/
inductive Decoded where
  | command (i : Instr)
  | reserved (why : ReservedWord)
deriving DecidableEq, Repr

/-- Field `op`, bits 31:30 (R100). -/
def opField (w : CmdWord) : BitVec 2 := w.extractLsb' 30 2

/-- Field `zero`, bits 29:24 (R100). -/
def zeroField (w : CmdWord) : BitVec 6 := w.extractLsb' 24 6

/-- Field `row`, bits 23:16 (R100). -/
def rowField (w : CmdWord) : Byte := w.extractLsb' 16 8

/-- Field `col`, bits 15:8 (R100). -/
def colField (w : CmdWord) : Byte := w.extractLsb' 8 8

/-- Field `value`, bits 7:0 (R100). -/
def valueField (w : CmdWord) : Byte := w.extractLsb' 0 8

/-- The reason of R109 that holds of a word which is no command: `op`, then `zero`, then an unused field. -/
def reservedKind (w : CmdWord) : ReservedWord :=
  if opField w = 0b11#2 then .reservedOp
  else if zeroField w ≠ 0#6 then .zeroField
  else .unusedField

/-- `Decode` (R103), by the match and mask pairs of R102. -/
def decode (w : CmdWord) : Decoded :=
  if w &&& 0xFFFFFFFF#32 = 0x00000000#32 then .command .init
  else if w &&& 0xFF0000FF#32 = 0x40000000#32 then .command (.read (rowField w) (colField w))
  else if w &&& 0xFF000000#32 = 0x80000000#32 then
    .command (.write (rowField w) (colField w) (valueField w))
  else .reserved (reservedKind w)

/-- A byte in a field of the word, `sh` bits up. -/
def atField (v : Byte) (sh : Nat) : CmdWord := v.setWidth 32 <<< sh

/-- `Encode` (R103). -/
def encode : Instr → CmdWord
  | .init => 0x00000000#32
  | .read row col => 0x40000000#32 ||| atField row 16 ||| atField col 8
  | .write row col value => 0x80000000#32 ||| atField row 16 ||| atField col 8 ||| atField value 0

/-- The instruction read from a word whose bits are `w`, bit 0 the least significant; bits from `nbits` up are 0. A
command is one 32-bit word (R100): a number that needs more bits is no command. -/
def decodeTableWord (nbits w : Nat) : Option Instr :=
  if w % 2 ^ nbits < 2 ^ 32 then
    match decode (BitVec.ofNat 32 (w % 2 ^ nbits)) with
    | .command i => some i
    | .reserved _ => none
  else none

end Sys2Proof
end

