-- ==== Sys2Proof/Config.lean ====
section
/-! DEFINITION. What a deployment fixes (`Cfg`, R6 to R11; the environment and host parameters, R10, R82, R83, R183, R185) and the free values, all as constants that no proof can look into. -/

namespace Sys2Proof

/-- `W`: a cell is a nibble or a full byte (R7). -/
inductive DataWidth where
  | nibble
  | byte
deriving DecidableEq, Repr, Inhabited

/-- The data width in bits (R7). -/
def DataWidth.bits : DataWidth → Nat
  | .nibble => 4
  | .byte => 8

/-- `writeRelease`: strobes or data side first at the end of a WRITE (R11). -/
inductive WriteRelease where
  | strobesFirst
  | dataFirst
deriving DecidableEq, Repr, Inhabited

/-- `weRelease`: the order inside the data side (R11). -/
inductive WeRelease where
  | releaseThenWe
  | weThenRelease
deriving DecidableEq, Repr, Inhabited

/-- The identity wiring of `n` address bits onto the eight port bits, `lineMap[i] = i`: the default for a variant for which no map
is given (R8, R74). -/
def identityMap (n : Nat) : List (Fin 8) := [0, 1, 2, 3, 4, 5, 6, 7].take n

/-- The configuration record `Cfg` (R6 to R11), with the defaults of R8 and R11. `P = 8` is fixed (R8) and so is no field. -/
structure Cfg where
  /-- bits of a row index (R6) -/
  rowBits : Nat
  /-- bits of a column index (R6) -/
  colBits : Nat
  /-- data width `W` (R7) -/
  width : DataWidth
  /-- logical address bit `i` is wired to port bit `lineMap[i]`, the identity where no map is given (R8) -/
  lineMap : List (Fin 8) := identityMap (max rowBits colBits)
  /-- settle cycles of READ (R9) -/
  settleCycles : Nat
  /-- (R11) -/
  writeRelease : WriteRelease := .strobesFirst
  /-- (R11) -/
  weRelease : WeRelease := .releaseThenWe
deriving DecidableEq, Repr, Inhabited

/-- `ROWS` (R6). -/
def Cfg.rows (c : Cfg) : Nat := 2 ^ c.rowBits

/-- `COLS` (R6). -/
def Cfg.cols (c : Cfg) : Nat := 2 ^ c.colBits

/-- `addrBits` (R6). -/
def Cfg.addrBits (c : Cfg) : Nat := max c.rowBits c.colBits

/-- `ValidCfg` (R253): the ranges of R6 and R9, and an injective `lineMap` of `addrBits` entries (R8, R73). -/
abbrev Cfg.Valid (c : Cfg) : Prop :=
  (1 ≤ c.rowBits ∧ c.rowBits ≤ 8) ∧ (1 ≤ c.colBits ∧ c.colBits ≤ 8) ∧
    c.lineMap.length = c.addrBits ∧ c.lineMap.Nodup ∧ c.settleCycles ≤ 255

/-- The observed 6+6 deployment of full bytes with the observed line map and the default release order (R6 to R8, R11, R71), and two
settle cycles, as `Cfg66` of 95_test_vectors.md has them. -/
def Cfg.observed66 : Cfg where
  rowBits := 6
  colBits := 6
  width := .byte
  lineMap := [0, 1, 4, 5, 6, 7]
  settleCycles := 2

/-- The observed 4+4 deployment of nibbles; the source gives it no wiring, so it has the identity (R6 to R8, R11, R74). It is an
example, used by no step.
[DESIGN CHOICE, log entry 2: the two settle cycles; R9 observes 1 and 2, and which goes with this variant is open (N14).] -/
def Cfg.observed44 : Cfg where
  rowBits := 4
  colBits := 4
  width := .nibble
  settleCycles := 2

/-- A wiring variant as a deployment is set up (R6 to R9, R11): its line map may be given or not (R8). -/
structure Variant where
  /-- (R6) -/
  rowBits : Nat
  /-- (R6) -/
  colBits : Nat
  /-- (R7) -/
  width : DataWidth
  /-- the line map, where one is given (R8) -/
  wiring : Option (List (Fin 8))
  /-- (R9) -/
  settleCycles : Nat
  /-- (R11) -/
  writeRelease : WriteRelease
  /-- (R11) -/
  weRelease : WeRelease
deriving DecidableEq, Repr, Inhabited

/-- The configuration of a variant: the map given, or the identity where none is (R8). -/
def Variant.cfg (v : Variant) : Cfg where
  rowBits := v.rowBits
  colBits := v.colBits
  width := v.width
  lineMap := v.wiring.getD (identityMap (max v.rowBits v.colBits))
  settleCycles := v.settleCycles
  writeRelease := v.writeRelease
  weRelease := v.weRelease

/-- What a free value stands for, so that two draws of one step are different draws. -/
inductive DrawSite where
  /-- the content of a cell that no rule fixes (R36, R82); argument: the cell's key -/
  | cell (key : Nat)
  /-- the data lines sampled too early or while nobody drives them (R81) -/
  | sample
  /-- the value stored while nobody drives the data lines (R79) -/
  | store
  /-- the row latched from released address lines (R77) -/
  | rowPins
  /-- the column latched from released address lines (R78) -/
  | colPins
deriving DecidableEq, Repr

/-- The two device latches, which are free while the control lines float (R76). -/
inductive LatchSite where
  | rowLatch
  | colLatch
deriving DecidableEq, Repr

/-- A deployment: the configuration, the environment's parameters, the host macros' parameters and the free values.
Every function of the machine takes one, so that a claim can quantify over all of them; the machine itself runs with
`Config.env`. -/
structure Env where
  /-- the configuration record (R6 to R11) -/
  cfg : Cfg
  /-- settle cycles the sampling path needs (R10) -/
  minSettle : Nat
  /-- clock edges a stored cell is stable (R82) -/
  retention : Nat
  /-- the defective cells: key of the cell and the value it always reads as (R83) -/
  stuck : List (Nat × Byte)
  /-- clock edges per unit of WAIT (R183) -/
  waitUnit : Nat
  /-- longest list of diverging cells in a report (R185) -/
  maxDiffs : Nat
  /-- the draws: a fresh value for each step index and site (R15, R18) -/
  draw : Nat → DrawSite → Byte
  /-- what the device latches hold while the control lines float (R76) -/
  drawLatch : Nat → LatchSite → Option Byte

/-- The variant the deployment is, valid or not, with or without a line map. OPAQUE: nothing can be proved of its value. -/
opaque Config.variant : Variant

/-- The deployment's configuration: any valid one (an invalid `Cfg` is outside every rule, R73, R206 d).
[DESIGN CHOICE, log entry 2: a variant whose configuration is invalid is replaced by the observed configuration; safe.] -/
def Config.cfg : Cfg := if Config.variant.cfg.Valid then Config.variant.cfg else Cfg.observed66

/-- OPEN parameter `minSettle` (R10). -/
opaque Config.minSettle : Nat

/-- OPEN parameter `retention` (R82). -/
opaque Config.retention : Nat

/-- Environment parameter `stuck` (R83). -/
opaque Config.stuck : List (Nat × Byte)

/-- OPEN parameter `waitUnit` (R183). -/
opaque Config.waitUnit : Nat

/-- OPEN parameter `MAX_DIFFS` (R185). -/
opaque Config.maxDiffs : Nat

/-- FREE VALUES (log entry 3): the draw of a step and a site. -/
opaque Config.draw : Nat → DrawSite → Byte

/-- FREE VALUES (log entry 3): a device latch while the control lines float. -/
opaque Config.drawLatch : Nat → LatchSite → Option Byte

/-- The deployment the machine runs in. -/
def Config.env : Env where
  cfg := Config.cfg
  minSettle := Config.minSettle
  retention := Config.retention
  stuck := Config.stuck
  waitUnit := Config.waitUnit
  maxDiffs := Config.maxDiffs
  draw := Config.draw
  drawLatch := Config.drawLatch

end Sys2Proof
end

