-- ==== Sys2Proof/Machine/State.lean ====
section
/-! DEFINITION. The state of the sequencer (R21 to R34), of the device (R36, R37), the contention mark (R80), the host's coming moves (R33, R245) and the model's own step index; the reset state (R40, R41). -/

namespace Sys2Proof.Machine

/-- The phase register `PHASE`, 23 values (R23). -/
inductive Phase where
  | uninit | iCtrl | iAddr | iData | idle
  | wRow | wRas | wData | wDrive | wWe | wCol | wCas | wX1 | wX2 | wX3
  | rRow | rRas | rCol | rCas | rSettle | rSample | rRel
  | fault
deriving DecidableEq, Repr, Inhabited

/-- The four acceptance faults (R200, R205, U11). The spec describes the entry of each (R210), so the machine TAKES it:
it answers a next state with `FAULT_CODE` and `PHASE` written, and no step ends in an outcome `fault`. -/
inductive Fault where
  /-- `ERR_RESERVED`, code 1 (R201): recorded by the acceptance of a reserved word. Safe: the spec's own fault. -/
  | reserved
  /-- `ERR_NOT_INIT`, code 2 (R202): recorded by READ and WRITE accepted in `UNINIT`. Safe: the spec's own fault. -/
  | notInit
  /-- `ERR_REINIT`, code 3 (R203): recorded by INIT accepted in `IDLE`. Safe: the spec's own fault. -/
  | reInit
  /-- `ERR_OPERAND`, code 4 (R204): recorded by READ and WRITE with an operand out of range. Safe: the spec's own fault. -/
  | operand
deriving DecidableEq, Repr

/-- Why the model refuses an instruction. -/
inductive Refusal where
  /-- An instruction without a meaning; raised by no arm of `exec`, since every command has one. Safe. -/
  | notModelled (mnemonic : String)
deriving DecidableEq, Repr

/-- What the host puts on the input ports before one step (R20 b, R33): any of them before any step, in any order. A host that
holds a command (R245) makes the same move again. -/
inductive HostMove where
  /-- `rst_n = 1`, `cmd_valid = 0` -/
  | idle
  /-- `rst_n = 1`, `cmd_valid = 1`, `cmd = word` -/
  | present (word : CmdWord)
  /-- `rst_n = 0` (R230) -/
  | reset
deriving DecidableEq, Repr

/-- The registers of the sequencer (R13). -/
structure Seq where
  /-- `PHASE` (R23) -/
  phase : Phase
  /-- `ROW` (R21) -/
  row : Byte
  /-- `COL` (R21) -/
  col : Byte
  /-- `WDATA`, the low `W` bits (R21) -/
  wdata : Byte
  /-- `RDATA`, the low `W` bits (R21) -/
  rdata : Byte
  /-- `CNT`, the settle counter (R34) -/
  cnt : Byte
  /-- `INITED` (R25) -/
  inited : Bool
  /-- `RSP_VALID` (R26) -/
  rspValid : Bool
  /-- `FAULT_CODE` (R27) -/
  faultCode : BitVec 3
  /-- `RAS_N`, `true` is level 1, de-asserted (R28) -/
  rasN : Bool
  /-- `CAS_N` (R28) -/
  casN : Bool
  /-- `WE_N` (R28) -/
  weN : Bool
  /-- `CTRL_OE` (R29) -/
  ctrlOe : Bool
  /-- `ADDR_OUT` (R30) -/
  addrOut : Byte
  /-- `ADDR_OE` (R30) -/
  addrOe : Bool
  /-- `DQ_OUT`, the low `W` bits (R31) -/
  dqOut : Byte
  /-- `DQ_OE` (R31) -/
  dqOe : Bool
deriving DecidableEq, Repr

/-- The DRAM device on the other side of the pins (R36, R37). -/
structure Device where
  /-- The cells stored since reset, by key, with the value stored. A cell that is not listed holds a draw (R36, R41). -/
  mem : List Host.Cell
  /-- `age` of each listed cell: clock edges since it was stored (R37). An unlisted cell's age is at least `retention` (R41). -/
  ages : List (Nat × Nat)
  /-- the latched row, or none (R36) -/
  rowL : Option Byte
  /-- the latched column, or none (R36) -/
  colL : Option Byte
deriving DecidableEq, Repr

/-- The whole state. -/
structure State where
  /-- the sequencer's registers (R21 to R34) -/
  seq : Seq
  /-- the device (R36, R37) -/
  dev : Device
  /-- the mark `BusContention`, never cleared (R80, R206 c) -/
  contention : Bool
  /-- the host's coming moves, one a step; with none left the host idles (log entry 4) -/
  host : List HostMove
  /-- the model's own: counts the steps and indexes the free values (log entry 3) -/
  edge : Nat
deriving DecidableEq, Repr

/-- The reset values of the sequencer (R40). -/
def Seq.reset : Seq where
  phase := .uninit
  row := 0#8
  col := 0#8
  wdata := 0#8
  rdata := 0#8
  cnt := 0#8
  inited := false
  rspValid := false
  faultCode := 0#3
  rasN := true
  casN := true
  weN := true
  ctrlOe := false
  addrOut := 0#8
  addrOe := false
  dqOut := 0#8
  dqOe := false

/-- The device after reset: every cell a draw with an age of at least `retention`, nothing latched (R41, R232). -/
def Device.reset : Device where
  mem := []
  ages := []
  rowL := none
  colL := none

/-- The machine right after reset (R40, R41); `contention`, `host` and `edge` are log entries 11, 4 and 3. -/
def State.reset : State where
  seq := Seq.reset
  dev := Device.reset
  contention := false
  host := []
  edge := 0

end Sys2Proof.Machine
end

