-- ==== Sys2Proof/Machine/Flags.lean ====
section
/-! DEFINITION. The flags of the block (R25 to R27): the fault codes and the two handshake levels computed from `PHASE` (R33). -/

namespace Sys2Proof.Machine

/-- The code `FAULT_CODE` records for a fault (R201 to R204). -/
def faultBits : Fault → BitVec 3
  | .reserved => 1#3
  | .notInit => 2#3
  | .reInit => 3#3
  | .operand => 4#3

/-- `cmd_ready`: `PHASE` is `UNINIT` or `IDLE` (R33). -/
def phaseReady : Phase → Bool
  | .uninit => true
  | .idle => true
  | _ => false

/-- `busy`: `PHASE` is an `I_*`, `W_*` or `R_*` phase (R33). -/
def phaseBusy : Phase → Bool
  | .uninit => false
  | .idle => false
  | .fault => false
  | _ => true

/-- The phases of INIT (R23). -/
def phaseOfInit : Phase → Bool
  | .iCtrl => true
  | .iAddr => true
  | .iData => true
  | _ => false

/-- The `W_*` phases (R23). -/
def phaseOfWrite : Phase → Bool
  | .wRow => true
  | .wRas => true
  | .wData => true
  | .wDrive => true
  | .wWe => true
  | .wCol => true
  | .wCas => true
  | .wX1 => true
  | .wX2 => true
  | .wX3 => true
  | _ => false

/-- The `R_*` phases (R23). -/
def phaseOfRead : Phase → Bool
  | .rRow => true
  | .rRas => true
  | .rCol => true
  | .rCas => true
  | .rSettle => true
  | .rSample => true
  | .rRel => true
  | _ => false

/-- Fault entry (R210): the code, `PHASE`, `RSP_VALID`, and nothing else. -/
def raiseFault (f : Fault) (q : Seq) : Seq :=
  { q with faultCode := faultBits f, phase := .fault, rspValid := false }

end Sys2Proof.Machine
end

