-- ==== Sys2Proof/Machine/Operands.lean ====
section
/-! DEFINITION. Operand forms: the range checks of acceptance (R104, R105), the masks (R12, R107), the address decomposition and its inverse (R70, R72, R75), and the key of a cell. -/

namespace Sys2Proof.Machine

/-- `mask_N(v) = v mod 2^N` (R12). -/
def maskBits (n : Nat) (v : Byte) : Byte := BitVec.ofNat 8 (v.toNat % 2 ^ n)

/-- `mask_W` (R107). -/
def maskW (c : Cfg) (v : Byte) : Byte := maskBits c.width.bits v

/-- The line pattern of logical bits `i`, `i+1`, … wired by the entries of the map (R70). -/
def linesFrom : List (Fin 8) → Nat → Byte → Byte
  | [], _, _ => 0#8
  | port :: wiring, i, a =>
    (if a.getLsbD i then BitVec.twoPow 8 port.val else 0#8) ||| linesFrom wiring (i + 1) a

/-- `addr_to_lines` (R70): bit `i` of the index on port bit `lineMap[i]`, every other port bit 0. -/
def addrToLines (c : Cfg) (a : Byte) : Byte := linesFrom c.lineMap 0 a

/-- The logical bits `i`, `i+1`, … seen on a pattern through the entries of the map (R72). -/
def addrFrom : List (Fin 8) → Nat → Byte → Byte
  | [], _, _ => 0#8
  | port :: wiring, i, p =>
    (if p.getLsbD port.val then BitVec.twoPow 8 i else 0#8) ||| addrFrom wiring (i + 1) p

/-- `lines_to_addr` (R72): bit `i` of the index is port bit `lineMap[i]`. -/
def linesToAddr (c : Cfg) (p : Byte) : Byte := addrFrom c.lineMap 0 p

/-- The row the device sees on a pattern (R75, R77). -/
def rowOfLines (c : Cfg) (p : Byte) : Byte := maskBits c.rowBits (linesToAddr c p)

/-- The column the device sees on a pattern (R75, R78). -/
def colOfLines (c : Cfg) (p : Byte) : Byte := maskBits c.colBits (linesToAddr c p)

/-- `row < ROWS` and `col < COLS` (R104). -/
def indexFits (c : Cfg) (row col : Byte) : Bool :=
  decide (row.toNat < c.rows) && decide (col.toNat < c.cols)

/-- `value < 2^W` (R104, R105). -/
def valueFits (c : Cfg) (value : Byte) : Bool := decide (value.toNat < 2 ^ c.width.bits)

/-- The key under which the model lists a cell. [DESIGN CHOICE, log entry 5: an address is always the pair (R60); safe,
since distinct pairs have distinct keys.] -/
def cellKey (row col : Byte) : Nat := row.toNat * 256 + col.toNat

end Sys2Proof.Machine
end

