-- ==== Sys2Proof/Machine/Ops.lean ====
section
/-! DEFINITION. The named operations: lists of entries in key order, which hold the device's cells and their ages (R36, R37), and the changes of the pin registers that commands share (R28 to R31, R148). -/

namespace Sys2Proof.Machine

/-- The entry of a key, if there is one. -/
def Table.find {α : Type} : List (Nat × α) → Nat → Option α
  | [], _ => none
  | (k, v) :: t, key => if k = key then some v else Table.find t key

/-- Put an entry at its place in key order, in place of an entry of the same key. -/
def Table.put {α : Type} : List (Nat × α) → Nat → α → List (Nat × α)
  | [], key, x => [(key, x)]
  | (k, v) :: t, key, x =>
    if key < k then (key, x) :: (k, v) :: t
    else if key = k then (key, x) :: t
    else (k, v) :: Table.put t key x

/-- Take the entry of a key out. -/
def Table.drop {α : Type} : List (Nat × α) → Nat → List (Nat × α)
  | [], _ => []
  | (k, v) :: t, key => if k = key then t else (k, v) :: Table.drop t key

/-- The canonical form of the device's memory: keys strictly rising. An unlisted cell reads as a draw, which no stored value
is known to equal, so no entry is ever dropped for its value (log entry 5). -/
abbrev Memory.wf (m : List Host.Cell) : Prop := (m.map Prod.fst).Pairwise (· < ·)

/-- The value stored in a cell since reset, if there was a store (R79). -/
def Memory.stored (m : List Host.Cell) (key : Nat) : Option Byte := Table.find m key

/-- One clock edge makes every cell one older (R37). -/
def ageAll (ages : List (Nat × Nat)) : List (Nat × Nat) := ages.map fun a => (a.1, a.2 + 1)

/-- Present an index on the address lines: `ADDR_OUT <- addr_to_lines(index)` (R141, R146, R161, R163). -/
def presentIndex (c : Cfg) (index : Byte) (q : Seq) : Seq := { q with addrOut := addrToLines c index }

/-- Assert RAS (R142, R162). -/
def assertRas (q : Seq) : Seq := { q with rasN := false }

/-- Assert CAS (R147, R164). -/
def assertCas (q : Seq) : Seq := { q with casN := false }

/-- Release action S: both strobes high in one step (R148, R168). -/
def releaseStrobes (q : Seq) : Seq := { q with rasN := true, casN := true }

/-- Release action Z: the data lines released (R148). -/
def releaseData (q : Seq) : Seq := { q with dqOe := false }

/-- Release action E: WE high (R148). -/
def releaseWe (q : Seq) : Seq := { q with weN := true }

end Sys2Proof.Machine
end

