-- ==== Sys2Proof/Machine/Device.lean ====
section
/-! DEFINITION. The device: what it holds in a cell (R36, R82, R83), how it reacts to the pins after a step (R76 to R79, R90), what it drives (R80) and what the sampling path delivers (R81). In each function `n` is the step index that the draws are taken at. -/

namespace Sys2Proof.Machine

/-- `mem(r, c)` as it stands at a step: the stored value while the cell is younger than `retention`, else a draw of that step
(R36, R41, R82; log entry 6). -/
def memValue (e : Env) (n : Nat) (d : Device) (key : Nat) : Byte :=
  match Memory.stored d.mem key, Table.find d.ages key with
  | some v, some age => if age < e.retention then v else maskW e.cfg (e.draw n (.cell key))
  | _, _ => maskW e.cfg (e.draw n (.cell key))

/-- `cell(r, c)`: the stuck value where there is one, else `mem(r, c)` (R83; log entry 19). -/
def cellValue (e : Env) (n : Nat) (d : Device) (key : Nat) : Byte :=
  match Table.find e.stuck key with
  | some v => maskW e.cfg v
  | none => memValue e n d key

/-- `DevLatchRow` (R77). -/
def latchRow (e : Env) (n : Nat) (before after : Seq) (d : Device) : Device :=
  if before.rasN && !after.rasN then
    { d with rowL := some (if after.addrOe then rowOfLines e.cfg after.addrOut
                           else maskBits e.cfg.rowBits (e.draw n .rowPins)) }
  else if !before.rasN && after.rasN then { d with rowL := none }
  else d

/-- `DevLatchCol` (R78). -/
def latchCol (e : Env) (n : Nat) (before after : Seq) (d : Device) : Device :=
  if before.casN && !after.casN then
    if after.rasN then d
    else { d with colL := some (if after.addrOe then colOfLines e.cfg after.addrOut
                                else maskBits e.cfg.colBits (e.draw n .colPins)) }
  else if !before.casN && after.casN then { d with colL := none }
  else d

/-- One clock edge ages every cell (R37). -/
def ageDevice (d : Device) : Device := { d with ages := ageAll d.ages }

/-- Store a value in the cell of a key; its age is 0 after the step (R37, R79). -/
def storeAt (key : Nat) (v : Byte) (d : Device) : Device :=
  { d with mem := Table.put d.mem key v, ages := Table.put d.ages key 0 }

/-- Forget a cell: it holds a draw from now on (log entry 9). -/
def forgetCell (key : Nat) (d : Device) : Device :=
  { d with mem := Table.drop d.mem key, ages := Table.drop d.ages key }

/-- The cell the two latches address, if both hold something. -/
def openCell (d : Device) : Option Nat :=
  match d.rowL, d.colL with
  | some r, some c => some (cellKey r c)
  | _, _ => none

/-- What a store of this step puts in the cell (R79): `DQ_OUT`, or a draw when nobody drives the data lines. -/
def storedValue (e : Env) (n : Nat) (after : Seq) : Byte :=
  if after.dqOe then after.dqOut else maskW e.cfg (e.draw n .store)

/-- `DevStore` (R79): CAS falls inside a row cycle with WE low. -/
def storeCell (e : Env) (n : Nat) (before after : Seq) (d : Device) : Device :=
  if before.casN && !after.casN && !after.rasN && !after.weN then
    match openCell d with
    | some key => storeAt key (storedValue e n after) d
    | none => d
  else d

/-- A strobe sequence of R90: CAS falls while RAS is high, RAS falls or WE falls while CAS is low.
[DESIGN CHOICE, log entry 9: where two lines change in one step R90 is silent. `RAS_N = 1` beside a falling CAS is read after the step,
as R78 reads it; `CAS_N = 0` beside a falling RAS or WE is read before the step, so RAS and CAS, or WE and CAS, falling together
are no such sequence.] -/
def oddStrobe (before after : Seq) : Bool :=
  (before.casN && !after.casN && after.rasN) ||
    (before.rasN && !after.rasN && !before.casN) ||
    (before.weN && !after.weN && !before.casN)

/-- After a strobe sequence of R90 the open cell holds a draw. -/
def disturb (before after : Seq) (d : Device) : Device :=
  if oddStrobe before after then
    match openCell d with
    | some key => forgetCell key d
    | none => d
  else d

/-- The device while the control lines float (R76): every cell and both latches hold draws (log entry 8). -/
def floatDevice (e : Env) (n : Nat) (d : Device) : Device :=
  { d with mem := [], ages := [],
           rowL := (e.drawLatch n .rowLatch).map (maskBits e.cfg.rowBits),
           colL := (e.drawLatch n .colLatch).map (maskBits e.cfg.colBits) }

/-- The device's reaction to one step of the sequencer (R76 to R79, R90), with the aging of R37. -/
def react (e : Env) (n : Nat) (before after : Seq) (d : Device) : Device :=
  if after.ctrlOe then
    disturb before after
      (storeCell e n before after
        (ageDevice (latchCol e n before after (latchRow e n before after d))))
  else floatDevice e n d

/-- `DevDrive` (R80): the cell the device drives onto the data lines, by level; none when it does not drive. -/
def drivenCell (q : Seq) (d : Device) : Option Nat :=
  if q.ctrlOe && !q.rasN && !q.casN && q.weN then openCell d else none

/-- Contention (R80): the device and the sequencer both drive the data lines. -/
def contends (q : Seq) (d : Device) : Bool := (drivenCell q d).isSome && q.dqOe

/-- `dq_in` (R32, R81): the driven cell's value when only the device drives and the settle delay suffices, else a draw. -/
def dqIn (e : Env) (n : Nat) (q : Seq) (d : Device) : Byte :=
  match drivenCell q d with
  | some key =>
    if !q.dqOe && decide (e.minSettle ≤ e.cfg.settleCycles) then cellValue e n d key
    else maskW e.cfg (e.draw n .sample)
  | none => maskW e.cfg (e.draw n .sample)

end Sys2Proof.Machine
end

