-- ==== Sys2Proof/Machine/Init.lean ====
section
/-! DEFINITION. The command INIT: its acceptance (R104, R136) and its three pin actions (R130 to R134). -/

namespace Sys2Proof.Machine

/-- Acceptance of INIT (R104, R130, R203): legal in `UNINIT` only. -/
def acceptInit (q : Seq) : Seq :=
  if q.phase = .uninit then { q with rspValid := false, phase := .iCtrl }
  else raiseFault .reInit q

/-- The pin action of an `I_*` phase (R132, R133, R134). -/
def initAction (q : Seq) : Seq :=
  match q.phase with
  | .iCtrl => { q with rasN := true, casN := true, weN := true, ctrlOe := true, phase := .iAddr }
  | .iAddr => { q with addrOut := 0#8, addrOe := true, phase := .iData }
  | .iData => { q with dqOe := false, inited := true, phase := .idle }
  | _ => q

end Sys2Proof.Machine
end

