-- ==== Sys2Proof/Machine/Read.lean ====
section
/-! DEFINITION. The command READ: its acceptance (R104, R106, R171), its pin actions and the settle loop (R160 to R168). -/

namespace Sys2Proof.Machine

/-- Acceptance of READ (R104, R106, R202, R204). -/
def acceptRead (c : Cfg) (row col : Byte) (q : Seq) : Seq :=
  if q.phase = .uninit then raiseFault .notInit q
  else if indexFits c row col then { q with rspValid := false, row := row, col := col, phase := .rRow }
  else raiseFault .operand q

/-- The action of an `R_*` phase (R160 to R168); `dq` is `dq_in` of the step (R81). -/
def readAction (c : Cfg) (dq : Byte) (q : Seq) : Seq :=
  match q.phase with
  | .rRow => { presentIndex c q.row q with phase := .rRas }
  | .rRas => { assertRas q with phase := .rCol }
  | .rCol => { presentIndex c q.col q with phase := .rCas }
  | .rCas =>
    { assertCas q with
      cnt := BitVec.ofNat 8 c.settleCycles
      phase := if c.settleCycles = 0 then .rSample else .rSettle }
  | .rSettle => { q with cnt := q.cnt - 1#8, phase := if q.cnt = 1#8 then .rSample else .rSettle }
  | .rSample => { q with rdata := maskW c dq, phase := .rRel }
  | .rRel => { releaseStrobes q with rspValid := true, phase := .idle }
  | _ => q

end Sys2Proof.Machine
end

