-- ==== Sys2Proof/Machine/Write.lean ====
section
/-! DEFINITION. The command WRITE: its acceptance (R104, R106, R155), its pin actions (R140 to R147) and the configured release order (R148, R150). -/

namespace Sys2Proof.Machine

/-- Acceptance of WRITE (R104, R106, R202, R204). -/
def acceptWrite (c : Cfg) (row col value : Byte) (q : Seq) : Seq :=
  if q.phase = .uninit then raiseFault .notInit q
  else if indexFits c row col && valueFits c value then
    { q with rspValid := false, row := row, col := col, wdata := maskW c value, phase := .wRow }
  else raiseFault .operand q

/-- The three release actions of WRITE: S, Z, E (R148). -/
inductive ReleaseAction where
  | strobes
  | data
  | we
deriving DecidableEq, Repr

/-- The order of the release actions (R150): the actions of `W_X1`, `W_X2`, `W_X3`. -/
def releaseOrder (c : Cfg) : ReleaseAction × ReleaseAction × ReleaseAction :=
  match c.writeRelease, c.weRelease with
  | .strobesFirst, .releaseThenWe => (.strobes, .data, .we)
  | .strobesFirst, .weThenRelease => (.strobes, .we, .data)
  | .dataFirst, .releaseThenWe => (.data, .we, .strobes)
  | .dataFirst, .weThenRelease => (.we, .data, .strobes)

/-- What a release action does to the pin registers (R148). -/
def doRelease (a : ReleaseAction) (q : Seq) : Seq :=
  match a with
  | .strobes => releaseStrobes q
  | .data => releaseData q
  | .we => releaseWe q

/-- The pin action of a `W_*` phase (R140 to R150). -/
def writeAction (c : Cfg) (q : Seq) : Seq :=
  match q.phase with
  | .wRow => { presentIndex c q.row q with phase := .wRas }
  | .wRas => { assertRas q with phase := .wData }
  | .wData => { q with dqOut := q.wdata, phase := .wDrive }
  | .wDrive => { q with dqOe := true, phase := .wWe }
  | .wWe => { q with weN := false, phase := .wCol }
  | .wCol => { presentIndex c q.col q with phase := .wCas }
  | .wCas => { assertCas q with phase := .wX1 }
  | .wX1 => { doRelease (releaseOrder c).1 q with phase := .wX2 }
  | .wX2 => { doRelease (releaseOrder c).2.1 q with phase := .wX3 }
  | .wX3 => { doRelease (releaseOrder c).2.2 q with phase := .idle }
  | _ => q

end Sys2Proof.Machine
end

