-- ==== Sys2Proof/Machine/Clock.lean ====
section
/-! DEFINITION. One clock edge: the command in progress advances (R24), the device reacts (R76 to R90), contention is marked (R80); the edges at which no command is accepted, a reserved word is, or reset is low. -/

namespace Sys2Proof.Machine

/-- The sequencer's next registers when nothing is accepted (R24): the phase's own action, or no change in `UNINIT`, `IDLE` and
`FAULT`. -/
def advanceSeq (c : Cfg) (dq : Byte) (q : Seq) : Seq :=
  match q.phase with
  | .uninit => q
  | .iCtrl => initAction q
  | .iAddr => initAction q
  | .iData => initAction q
  | .idle => q
  | .wRow => writeAction c q
  | .wRas => writeAction c q
  | .wData => writeAction c q
  | .wDrive => writeAction c q
  | .wWe => writeAction c q
  | .wCol => writeAction c q
  | .wCas => writeAction c q
  | .wX1 => writeAction c q
  | .wX2 => writeAction c q
  | .wX3 => writeAction c q
  | .rRow => readAction c dq q
  | .rRas => readAction c dq q
  | .rCol => readAction c dq q
  | .rCas => readAction c dq q
  | .rSettle => readAction c dq q
  | .rSample => readAction c dq q
  | .rRel => readAction c dq q
  | .fault => q

/-- A clock edge that takes the sequencer to `q`: the device reacts to the new pins within the same step (R20 c), contention is
marked (R80), the step index moves on. -/
def edgeTo (e : Env) (s : State) (q : Seq) : State :=
  let d := react e s.edge s.seq q s.dev
  { s with seq := q, dev := d, contention := s.contention || contends q d, edge := s.edge + 1 }

/-- A clock edge at which no command is accepted (R24, R104). -/
def quietEdge (e : Env) (s : State) : State :=
  edgeTo e s (advanceSeq e.cfg (dqIn e s.edge s.seq s.dev) s.seq)

/-- A clock edge with a reserved word on the port (R104, R201): `ERR_RESERVED` if it is accepted, else it is ignored. -/
def reservedEdge (e : Env) (s : State) : State :=
  if phaseReady s.seq.phase then edgeTo e s (raiseFault .reserved s.seq) else quietEdge e s

/-- `rst_n` low (R230, R231, R232): the reset values, whatever the clock does (log entry 12); the mark stays (log entry 11). -/
def resetEdge (s : State) : State :=
  { s with seq := Seq.reset, dev := Device.reset, edge := s.edge + 1 }

end Sys2Proof.Machine
end

