-- ==== Sys2Proof/Machine/Commands.lean ====
section
/-! DEFINITION. The meanings of the three commands: one clock edge with the command on the port (R33, R104), in a deployment and for the machine. -/

namespace Sys2Proof.Machine

/-- A clock edge with INIT on the port (R104, R130): accepted, or ignored while `cmd_ready = 0`. -/
def initEdge (e : Env) (s : State) : State :=
  if phaseReady s.seq.phase then edgeTo e s (acceptInit s.seq) else quietEdge e s

/-- A clock edge with READ on the port (R104, R160): accepted, or ignored while `cmd_ready = 0`. -/
def readEdge (e : Env) (row col : Byte) (s : State) : State :=
  if phaseReady s.seq.phase then edgeTo e s (acceptRead e.cfg row col s.seq) else quietEdge e s

/-- A clock edge with WRITE on the port (R104, R140): accepted, or ignored while `cmd_ready = 0`. -/
def writeEdge (e : Env) (row col value : Byte) (s : State) : State :=
  if phaseReady s.seq.phase then edgeTo e s (acceptWrite e.cfg row col value s.seq) else quietEdge e s

/-- A clock edge with a command on the port, in a deployment `e`. -/
def commandEdge (e : Env) (i : Instr) (s : State) : State :=
  match i with
  | .init => initEdge e s
  | .read row col => readEdge e row col s
  | .write row col value => writeEdge e row col value s

/-- The meaning of INIT: one clock edge with INIT on the port (log entry 1). -/
def execInit (s : State) : Host.Outcome State Fault Refusal := .next (initEdge Config.env s)

/-- The meaning of READ: one clock edge with READ on the port (log entry 1). -/
def execRead (row col : Byte) (s : State) : Host.Outcome State Fault Refusal :=
  .next (readEdge Config.env row col s)

/-- The meaning of WRITE: one clock edge with WRITE on the port (log entry 1). -/
def execWrite (row col value : Byte) (s : State) : Host.Outcome State Fault Refusal :=
  .next (writeEdge Config.env row col value s)

/-- Steps of a command from acceptance to `IDLE`, both included (R248). -/
def commandSteps (c : Cfg) : Instr → Nat
  | .init => 4
  | .read _ _ => 7 + c.settleCycles
  | .write _ _ _ => 11

end Sys2Proof.Machine
end

