-- ==== Sys2Proof/Machine/Dispatch.lean ====
section
/-! DEFINITION. One arm per command: the meaning of each (the command with its word on the port for one clock edge). -/

namespace Sys2Proof.Machine
open Sys2Proof

def exec (i : Instr) (s : State) : Host.Outcome State Fault Refusal :=
  match i with
  | .init => Sys2Proof.Machine.execInit s
  | .read row col => Sys2Proof.Machine.execRead row col s
  | .write row col value => Sys2Proof.Machine.execWrite row col value s

end Sys2Proof.Machine
end

