-- ==== Sys2Proof/Machine/Port.lean ====
section
/-! DEFINITION. The input ports: what the host's next move puts on them (R20 b, R33), and the step each input makes (R104, R209). -/

namespace Sys2Proof.Machine

/-- What the input ports carry at the coming step, with the state in which the host's move is used up. -/
inductive PortInput where
  /-- `rst_n = 0` -/
  | reset (s : State)
  /-- `rst_n = 1`, `cmd_valid = 0` -/
  | quiet (s : State)
  /-- `cmd_valid = 1` and `cmd` is a command -/
  | command (i : Instr) (s : State)
  /-- `cmd_valid = 1` and `cmd` is a reserved word -/
  | reserved (s : State)

/-- The host's next move (R20 b): the inputs of this step and of no other. A word that is not accepted is kept nowhere (R38); that
the host goes on presenting it is its duty (R245, `HostDuties`). With no move left the host idles (log entry 4). -/
def portInput (s : State) : PortInput :=
  match s.host with
  | [] => .quiet s
  | .idle :: rest => .quiet { s with host := rest }
  | .reset :: rest => .reset { s with host := rest }
  | .present word :: rest =>
    match decode word with
    | .command i => .command i { s with host := rest }
    | .reserved _ => .reserved { s with host := rest }

/-- One step in a deployment, with the meaning of commands given: reset has priority (R209), then the port (R104). -/
def stepBy (run : Instr → State → Host.Outcome State Fault Refusal) (e : Env) (s : State) :
    Host.Outcome State Fault Refusal :=
  match portInput s with
  | .reset t => .next (resetEdge t)
  | .quiet t => .next (quietEdge e t)
  | .command i t => run i t
  | .reserved t => .next (reservedEdge e t)

/-- One step in a deployment `e`, as a function. -/
def stepIn (e : Env) (s : State) : State :=
  match portInput s with
  | .reset t => resetEdge t
  | .quiet t => quietEdge e t
  | .command i t => commandEdge e i t
  | .reserved t => reservedEdge e t

/-- `n` steps in a deployment `e`. -/
def runIn (e : Env) : Nat → State → State
  | 0, s => s
  | n + 1, s => runIn e n (stepIn e s)

end Sys2Proof.Machine
end

