-- ==== Sys2Proof/Machine/Step.lean ====
section
/-! DEFINITION. The step of the machine, and how a command comes to be the one the next step takes. -/

namespace Sys2Proof.Machine

/-- One step: one rising clock edge (R16) or one reset (R230), as the host's next move says. -/
def step (s : State) : Host.Outcome State Fault Refusal := stepBy exec Config.env s

/-- The host presents the word next. The port is read only while `cmd_ready = 1` (R33), so a state that is not ready is put in
`IDLE` (log entry 13). -/
def State.withFetchWord (s : State) (nbits w : Nat) : State :=
  { s with
    host := .present (BitVec.ofNat 32 (w % 2 ^ nbits)) :: s.host
    seq := { s.seq with phase := if phaseReady s.seq.phase then s.seq.phase else .idle } }

end Sys2Proof.Machine
end

