-- ==== Sys2Proof/Machine/Harness.lean ====
section
/-! DEFINITION. The host macros of the Decay Harness over the three commands (R180 to R187). They are host software, no part of the block (R5 a): no step of the machine runs them.

[DESIGN CHOICE, log entry 20: R180 presupposes that INIT has completed and says nothing of a macro started before it, or that comes to FAULT (so after a FILL with a pattern of more than `W` bits). There a macro of the model goes on: each of its commands has its turn, and every VERIFY ends in a report. Nor does a rule say what a VERIFY does with an expected value of more than `W` bits: see `recordReading`.] -/

namespace Sys2Proof.Machine

/-- Number of set bits (R12, R186). -/
def popcount (v : Byte) : Nat := (List.range 8).countP fun i => v.getLsbD i

/-- One diverging cell (R184). -/
structure Diff where
  row : Byte
  col : Byte
  xorDiff : Byte
deriving DecidableEq, Repr

/-- The result of one read-back (R184); its counters are unbounded. -/
structure DiffReport where
  cellsCompared : Nat
  byteDiffCount : Nat
  bitDiffCount : Nat
  diffs : List Diff
deriving DecidableEq, Repr

/-- One cell read back: its row, its column and the value. -/
structure Reading where
  row : Byte
  col : Byte
  actual : Byte
deriving DecidableEq, Repr

/-- The report before any cell (R185). -/
def emptyReport : DiffReport := { cellsCompared := 0, byteDiffCount := 0, bitDiffCount := 0, diffs := [] }

/-- One turn of VERIFY's loop (R185).
[DESIGN CHOICE, log entry 20: R186 gives XOR on values of `W` bits only. For an expected value of more than `W` bits the model takes
the XOR over all eight bits, so every cell diverges and the bits from `W` up are counted.] -/
def recordReading (maxDiffs : Nat) (expected : Byte) (rep : DiffReport) (r : Reading) : DiffReport :=
  let x := r.actual ^^^ expected
  { cellsCompared := rep.cellsCompared + 1
    byteDiffCount := if x = 0#8 then rep.byteDiffCount else rep.byteDiffCount + 1
    bitDiffCount := rep.bitDiffCount + popcount x
    diffs := if x ≠ 0#8 ∧ rep.diffs.length < maxDiffs then
        rep.diffs ++ [{ row := r.row, col := r.col, xorDiff := x }]
      else rep.diffs }

/-- The report of cells read in this order (R185). -/
def reportOf (maxDiffs : Nat) (expected : Byte) (readings : List Reading) : DiffReport :=
  readings.foldl (recordReading maxDiffs expected) emptyReport

/-- The grid in traversal order: rows outermost, both ascending (R181, R182). -/
def gridCells (c : Cfg) : List (Byte × Byte) :=
  (List.range c.rows).flatMap fun r => (List.range c.cols).map fun k => (BitVec.ofNat 8 r, BitVec.ofNat 8 k)

/-- Issue one command in a ready phase and wait for `cmd_ready` (R180, R245, R248). In any other phase, so in FAULT, the command is
presented at one edge, is not accepted, and the edges of its turn pass all the same (log entry 20). -/
def issue (e : Env) (i : Instr) (s : State) : State :=
  runIn e (commandSteps e.cfg i) { s with host := [.present (encode i)] }

/-- `FILL pattern` (R181). A WRITE that faults or is not accepted does not end it (log entry 20). -/
def fill (e : Env) (pattern : Byte) (s : State) : State :=
  (gridCells e.cfg).foldl (fun t rc => issue e (.write rc.1 rc.2 pattern) t) s

/-- `WAIT duration`: `duration * waitUnit` edges with `cmd_valid = 0` (R183). -/
def waitFor (e : Env) (duration : Nat) (s : State) : State :=
  runIn e (duration * e.waitUnit) { s with host := [] }

/-- READ every cell of the list, taking `rsp_data` after each command (R180, R185, R246). After a READ that faulted or was not
accepted `rsp_valid` is 0, and what `rsp_data` holds is taken all the same (log entry 20). -/
def readCells (e : Env) : List (Byte × Byte) → State → List Reading × State
  | [], s => ([], s)
  | rc :: rest, s =>
    let t := issue e (.read rc.1 rc.2) s
    let more := readCells e rest t
    ({ row := rc.1, col := rc.2, actual := t.seq.rdata } :: more.1, more.2)

/-- `VERIFY expected` (R185); an expected value of more than `W` bits is log entry 20. -/
def verify (e : Env) (expected : Byte) (s : State) : DiffReport × State :=
  let got := readCells e (gridCells e.cfg) s
  (reportOf e.maxDiffs expected got.1, got.2)

/-- `SWEEP pattern, delay` without the log, which goes to an external collaborator (R187, R217). -/
def sweep (e : Env) (pattern : Byte) (delay : Nat) (s : State) : DiffReport × State :=
  verify e pattern (waitFor e delay (fill e pattern s))

end Sys2Proof.Machine
end

