-- ==== Sys2Proof/Machine/OutPorts.lean ====
section
/-! DEFINITION. The ports of the block as functions of the state (R33, R114): the outputs to the host, the tri-state lines, who drives the data lines (R80), and the input levels the host's next move stands for. -/

namespace Sys2Proof.Machine

/-- `cmd_ready` (R33). -/
def State.cmdReady (s : State) : Bool := phaseReady s.seq.phase

/-- `busy` (R33). -/
def State.busy (s : State) : Bool := phaseBusy s.seq.phase

/-- `rsp_valid` (R33). -/
def State.rspValid (s : State) : Bool := s.seq.rspValid

/-- `rsp_data = zext_8(RDATA)` (R33, R113); `RDATA` is held in 8 bits (log entry 7). -/
def State.rspData (s : State) : Byte := s.seq.rdata

/-- `fault = FAULT_CODE` (R33). -/
def State.faultPort (s : State) : BitVec 3 := s.seq.faultCode

/-- `ras_n`: the latch when driven, else floating (R28, R33, R114). -/
def rasLine (q : Seq) : Option Bool := if q.ctrlOe then some q.rasN else none

/-- `cas_n` (R28, R33, R114). -/
def casLine (q : Seq) : Option Bool := if q.ctrlOe then some q.casN else none

/-- `we_n` (R28, R33, R114). -/
def weLine (q : Seq) : Option Bool := if q.ctrlOe then some q.weN else none

/-- `a` (R30, R33, R114). -/
def addrLines (q : Seq) : Option Byte := if q.addrOe then some q.addrOut else none

/-- What the sequencer puts on `dq` (R31, R33). -/
def dqDrive (q : Seq) : Option Byte := if q.dqOe then some q.dqOut else none

/-- Who drives the data lines, and with what (R80, R114). -/
inductive DataLines where
  | floating
  | bySequencer (value : Byte)
  | byDevice (value : Byte)
  | contention (ours theirs : Byte)
deriving DecidableEq, Repr

/-- The data lines of a state (R80): its levels are those the coming step sees. -/
def dataLines (e : Env) (s : State) : DataLines :=
  match dqDrive s.seq, drivenCell s.seq s.dev with
  | none, none => .floating
  | some v, none => .bySequencer v
  | none, some key => .byDevice (cellValue e s.edge s.dev key)
  | some v, some key => .contention v (cellValue e s.edge s.dev key)

/-- `rst_n` at the coming step (R33). -/
def State.rstN (s : State) : Bool :=
  match s.host with
  | .reset :: _ => false
  | _ => true

/-- `cmd_valid` and `cmd` at the coming step (R33). -/
def State.cmdPort (s : State) : Option CmdWord :=
  match s.host with
  | .present word :: _ => some word
  | _ => none

end Sys2Proof.Machine
end

