-- ==== Sys2Proof/WellFormed.lean ====
section
/-! DEFINITION. When a command's operands are legal in a configuration (R105, R110). -/

namespace Sys2Proof

/-- The operands obey the invariants `row < 2^rowBits`, `col < 2^colBits`, `value < 2^W` (R105). A command that is not
well formed is still a command; it is refused at acceptance with `ERR_OPERAND` (R110). -/
abbrev Instr.WellFormed (c : Cfg) : Instr → Prop
  | .init => True
  | .read row col => row.toNat < c.rows ∧ col.toNat < c.cols
  | .write row col value => row.toNat < c.rows ∧ col.toNat < c.cols ∧ value.toNat < 2 ^ c.width.bits

end Sys2Proof
end

