-- ==== Sys2Proof/Safety.lean ====
section
/-! DEFINITION. The words claims are made in: the named premises (R253; `ValidCfg` is `Cfg.Valid`), the invariants of the state (R39), the end of a run (R251). A run is `runIn e n s`: the `n` steps from `s` under the host's moves in `s.host`. -/

namespace Sys2Proof.Machine

/-- Premise `FromReset` (R253): the reset state (R40), with every cell a draw of an age of at least `retention` and nothing recorded
(R41, R251). The latches `rowL` and `colL`, the host's moves and the step index are whatever they are. -/
structure FromReset (s : State) : Prop where
  seq : s.seq = Seq.reset
  mem : s.dev.mem = []
  ages : s.dev.ages = []
  mark : s.contention = false

/-- A state that a run from reset comes to, whatever the host does (R253). -/
abbrev Reached (e : Env) (t : State) : Prop := ∃ s n, FromReset s ∧ runIn e n s = t

/-- Premise `NoFault`: `FAULT_CODE = 0` throughout a run of `n` steps (R253). -/
abbrev NoFault (e : Env) (n : Nat) (s : State) : Prop := ∀ m ≤ n, (runIn e m s).seq.faultCode = 0#3

/-- The host goes on presenting the word on the port while a command is in progress, unless it resets (R245).
[DESIGN CHOICE, log entry 4: in FAULT the host may present anything (R252), so nothing is asked of it there.] -/
def wordHeld (s : State) : Bool :=
  match s.host with
  | .present word :: rest =>
    !phaseBusy s.seq.phase || rest.head? == some (.present word) || rest.head? == some .reset
  | _ => true

/-- Premise `HostDuties` for a run of `n` steps (R253): the host holds every word it presents until the step that accepts it (R245).
The duty of R246, to take a result before the next command, puts nothing on a port and asks nothing of the moves. -/
abbrev HostDuties (e : Env) (n : Nat) (s : State) : Prop := ∀ m < n, wordHeld (runIn e m s) = true

/-- Premise `SettleOK` (R253). -/
abbrev SettleOK (e : Env) : Prop := e.minSettle ≤ e.cfg.settleCycles

/-- Premise `Fresh(r, c)` (R253): the cell was stored since reset and is younger than `retention`. -/
abbrev Fresh (e : Env) (d : Device) (key : Nat) : Prop :=
  ∃ age, Table.find d.ages key = some age ∧ age < e.retention

/-- Premise `NotStuck(r, c)` (R253). -/
abbrev NotStuck (e : Env) (key : Nat) : Prop := Table.find e.stuck key = none

/-- Premise `NoResetDuring`: `rst_n = 1` at each of the `n` edges of a run (R253). What the host does after them is left open. -/
abbrev NoResetDuring (n : Nat) (s : State) : Prop := HostMove.reset ∉ s.host.take n

/-- The command held on the port for `n` clock edges: its acceptance and, while `cmd_ready = 0`, the phases of the command in
progress (R33, R245). -/
def execFor : Nat → Instr → State → Host.Outcome State Fault Refusal
  | 0, _, s => .next s
  | n + 1, i, s =>
    match exec i s with
    | .next t => execFor n i t
    | .fault f => .fault f
    | .refused r => .refused r

/-- No cell is stored to and no cell is forgotten between two states (R62, R68). -/
abbrev MemKept (s t : State) : Prop :=
  ∀ key, Memory.stored t.dev.mem key = Memory.stored s.dev.mem key

/-- Every cell is `n` clock edges older (R37). -/
abbrev AgedBy (n : Nat) (s t : State) : Prop :=
  ∀ key, Table.find t.dev.ages key = (Table.find s.dev.ages key).map (· + n)

/-- Premise `ReleaseOrder = o` (R253): the order SZE, SEZ, ZES or EZS is the one of these two fields (R150). -/
abbrev ReleaseOrder (c : Cfg) (write : WriteRelease) (we : WeRelease) : Prop :=
  c.writeRelease = write ∧ c.weRelease = we

/-- The release order EZS, the only one with contention (R150, R153). -/
abbrev OrderEZS (c : Cfg) : Prop := ReleaseOrder c .dataFirst .weThenRelease

/-- "WE asserted implies data driven" (R152). -/
abbrev WeImpliesDriven (q : Seq) : Prop := q.weN = false → q.dqOe = true

/-- The word on the port is accepted in this step, or is on the port again at the next. -/
def wordPending (s : State) : Bool :=
  match s.host with
  | .present word :: rest => phaseReady s.seq.phase || rest.head? == some (.present word)
  | _ => true

/-- The run of `n` steps is over (R251): every word presented in it was accepted, `PHASE` is `IDLE` or `FAULT`, and the host holds
`cmd_valid = 0` from then on.
[DESIGN CHOICE, log entry 21: the rule names no reset. A reset made during the run does not count against it; with one still to come
the run is not over, and every move left must be `idle`.] -/
abbrev RunOver (e : Env) (n : Nat) (s : State) : Prop :=
  (∀ m < n, wordPending (runIn e m s) = true) ∧
    ((runIn e n s).seq.phase = .idle ∨ (runIn e n s).seq.phase = .fault) ∧
    ∀ move ∈ (runIn e n s).host, move = .idle

/-- The run ended well (R251). -/
abbrev EndedWell (e : Env) (n : Nat) (s : State) : Prop :=
  RunOver e n s ∧ (runIn e n s).seq.phase = .idle ∧ (runIn e n s).seq.faultCode = 0#3 ∧
    (runIn e n s).contention = false

/-- The lifecycle states (R215). -/
inductive Lifecycle where
  | uninitialised
  | ready
  | faulted
deriving DecidableEq, Repr

/-- The lifecycle state of the sequencer (R215).
[DESIGN CHOICE, log entry 22: R215 ties uninitialised to `PHASE = UNINIT` and ready to `INITED = 1`, so while INIT is in progress, in
`I_CTRL`, `I_ADDR` and `I_DATA`, the sequencer is in neither; the model counts these three phases as uninitialised.] -/
def lifecycle (q : Seq) : Lifecycle :=
  if q.phase = .fault then .faulted else if q.inited then .ready else .uninitialised

/-- The levels of the four lines a WRITE moves, in the order of R152: `RAS_N CAS_N WE_N DQ_OE`. -/
structure Pins where
  ras : Bool
  cas : Bool
  we : Bool
  dq : Bool
deriving DecidableEq, Repr

/-- The levels in the registers. -/
def pinsOf (q : Seq) : Pins := { ras := q.rasN, cas := q.casN, we := q.weN, dq := q.dqOe }

/-- The idle levels (R39 b). -/
def idlePins : Pins := { ras := true, cas := true, we := true, dq := false }

/-- The levels a phase starts from (R138, R152, R157, R174). -/
def phasePins (c : Cfg) : Phase → Pins
  | .wData => { ras := false, cas := true, we := true, dq := false }
  | .wDrive => { ras := false, cas := true, we := true, dq := false }
  | .wWe => { ras := false, cas := true, we := true, dq := true }
  | .wCol => { ras := false, cas := true, we := false, dq := true }
  | .wCas => { ras := false, cas := true, we := false, dq := true }
  | .wX1 => { ras := false, cas := false, we := false, dq := true }
  | .wX2 =>
    match c.writeRelease, c.weRelease with
    | .strobesFirst, _ => { ras := true, cas := true, we := false, dq := true }
    | .dataFirst, .releaseThenWe => { ras := false, cas := false, we := false, dq := false }
    | .dataFirst, .weThenRelease => { ras := false, cas := false, we := true, dq := true }
  | .wX3 =>
    match c.writeRelease, c.weRelease with
    | .strobesFirst, .releaseThenWe => { ras := true, cas := true, we := false, dq := false }
    | .strobesFirst, .weThenRelease => { ras := true, cas := true, we := true, dq := true }
    | .dataFirst, _ => { ras := false, cas := false, we := true, dq := false }
  | .rCol => { ras := false, cas := true, we := true, dq := false }
  | .rCas => { ras := false, cas := true, we := true, dq := false }
  | .rSettle => { ras := false, cas := false, we := true, dq := false }
  | .rSample => { ras := false, cas := false, we := true, dq := false }
  | .rRel => { ras := false, cas := false, we := true, dq := false }
  | _ => idlePins

/-- The drive enables and `INITED` a phase starts from: `CTRL_OE`, `ADDR_OE`, `INITED` (R25, R29, R30). -/
def phaseEnables : Phase → Bool × Bool × Bool
  | .uninit => (false, false, false)
  | .iCtrl => (false, false, false)
  | .iAddr => (true, false, false)
  | .iData => (true, true, false)
  | _ => (true, true, true)

/-- The drive enables and `INITED` in the registers. -/
def enablesOf (q : Seq) : Bool × Bool × Bool := (q.ctrlOe, q.addrOe, q.inited)

/-- Phases in which the WRITE's value is in the output latch (R143). -/
def dataLoaded : Phase → Bool
  | .wDrive => true
  | .wWe => true
  | .wCol => true
  | .wCas => true
  | .wX1 => true
  | .wX2 => true
  | .wX3 => true
  | _ => false

/-- The invariant of the sequencer's registers, from which R39 follows. -/
structure SeqInv (c : Cfg) (q : Seq) : Prop where
  pins : q.phase ≠ .fault → pinsOf q = phasePins c q.phase
  enables : q.phase ≠ .fault → enablesOf q = phaseEnables q.phase
  faulted : q.phase = .fault →
    pinsOf q = idlePins ∧ (enablesOf q = (false, false, false) ∨ enablesOf q = (true, true, true))
  faultCode : (q.faultCode ≠ 0#3 ↔ q.phase = .fault) ∧ q.faultCode.toNat ≤ 4
  response : q.rspValid = true → q.phase = .idle
  index : q.row.toNat < c.rows ∧ q.col.toNat < c.cols
  width : q.wdata.toNat < 2 ^ c.width.bits ∧ q.rdata.toNat < 2 ^ c.width.bits ∧ q.dqOut.toNat < 2 ^ c.width.bits
  unwired : ∀ j, q.addrOut.getLsbD j = true → ∃ port ∈ c.lineMap, port.val = j
  settle : q.phase = .rSettle → 1 ≤ q.cnt.toNat ∧ q.cnt.toNat ≤ c.settleCycles
  rowShown : q.phase = .wRas ∨ q.phase = .rRas → q.addrOut = addrToLines c q.row
  colShown : q.phase = .wCas ∨ q.phase = .rCas → q.addrOut = addrToLines c q.col
  loaded : dataLoaded q.phase = true → q.dqOut = q.wdata

/-- The invariant of the device, given the sequencer's registers: the latches hold the command's row and column while the strobes
are low; the memory is in canonical form, one age per cell, cells of the grid only, values of `W` bits. -/
structure DevInv (c : Cfg) (q : Seq) (d : Device) : Prop where
  rowOpen : q.rasN = false → d.rowL = some q.row
  colOpen : q.casN = false → d.colL = some q.col
  floating : q.ctrlOe = false → d.mem = []
  canonical : Memory.wf d.mem
  aged : d.ages.map Prod.fst = d.mem.map Prod.fst
  cells : ∀ cell ∈ d.mem, (∃ r k : Byte, r.toNat < c.rows ∧ k.toNat < c.cols ∧ cell.1 = cellKey r k) ∧
    cell.2.toNat < 2 ^ c.width.bits

/-- The invariant of the machine in a deployment: the sequencer's, the device's, and contention only under EZS (R153). -/
structure Inv (e : Env) (s : State) : Prop where
  seq : SeqInv e.cfg s.seq
  dev : DevInv e.cfg s.seq s.dev
  mark : s.contention = true → OrderEZS e.cfg

/-- The state a claim about a run or a step starts from: one that a run from reset in a valid deployment comes to, so that the claim
has no premise but those of R253; or, which makes the claim wider, any state that meets the invariant, reached or not. -/
abbrev InRun (e : Env) (s : State) : Prop := (e.cfg.Valid ∧ Reached e s) ∨ Inv e s

end Sys2Proof.Machine
end

