-- ==== Sys2Proof/Certificates/Slice0/Obligations.lean ====
section
/-! DEFINITION. The statements for the provers, from the numbered rules of the spec, file by file. A statement about a deployment `e` holds of every deployment, so of the machine's own (`step s = .next (stepIn Config.env s)`). The premises about runs are those R253 names; a starting state is one that a run from reset comes to, or any that meets the invariant (`InRun`). -/

open Sys2Proof Sys2Proof.Machine

/-! ### Reset (10_state.md, 70_reset_and_hazards.md) -/

/-- R40: the reset value of every register of the sequencer, as the table of the rule lists them (the spec's decision D8), and a
reset gives them in whatever state it comes. -/
def Obligations.ResetRegisterValues : Prop :=
  State.reset.seq.phase = .uninit ∧ State.reset.seq.inited = false ∧ State.reset.seq.rspValid = false ∧
    State.reset.seq.faultCode = 0#3 ∧ State.reset.seq.row = 0#8 ∧ State.reset.seq.col = 0#8 ∧
    State.reset.seq.wdata = 0#8 ∧ State.reset.seq.rdata = 0#8 ∧ State.reset.seq.cnt = 0#8 ∧
    State.reset.seq.rasN = true ∧ State.reset.seq.casN = true ∧ State.reset.seq.weN = true ∧
    State.reset.seq.ctrlOe = false ∧ State.reset.seq.addrOut = 0#8 ∧ State.reset.seq.addrOe = false ∧
    State.reset.seq.dqOut = 0#8 ∧ State.reset.seq.dqOe = false ∧
    ∀ (s : State) (rest : List HostMove), s.host = .reset :: rest → ∃ t, step s = .next t ∧ t.seq = State.reset.seq

/-- R230, R231: with `rst_n` low the sequencer has its reset values in whatever state it was, nothing presented is accepted, and
every cell of the device is a draw whatever it held. -/
def Obligations.ResetFromAnyState : Prop :=
  ∀ (s : State) (rest : List HostMove), s.host = .reset :: rest →
    ∃ t, step s = .next t ∧ t.seq = State.reset.seq ∧ t.host = rest ∧ t.dev.rowL = none ∧ t.dev.colL = none ∧
      ∀ n key, memValue Config.env n t.dev key = maskW Config.env.cfg (Config.env.draw n (.cell key))

/-! ### The step and the command port (10_state.md R33, 30_encoding.md R104) -/

/-- A step with a command on the port is `exec` of that command, with the host's move used up (log entry 4). -/
def Obligations.StepRunsPresentedCommand : Prop :=
  ∀ (s : State) (word : CmdWord) (rest : List HostMove) (i : Instr),
    s.host = .present word :: rest → decode word = .command i →
      step s = exec i { s with host := rest }

/-- R200: every step answers a next state; a step taken inside a command records no fault; a fault is recorded only by the
acceptance of a presented word, and it is one of the four. -/
def Obligations.NothingFaultsAfterAcceptance : Prop :=
  ∀ s : State, ∃ t, step s = .next t ∧
    (phaseBusy s.seq.phase = true → s.host.head? ≠ some .reset →
      t.seq.phase ≠ .fault ∧ t.seq.faultCode = s.seq.faultCode) ∧
    (s.host.head? ≠ some .reset → t.seq.faultCode ≠ s.seq.faultCode →
      phaseReady s.seq.phase = true ∧ (∃ word rest, s.host = .present word :: rest) ∧
        ∃ f : Fault, t.seq.faultCode = faultBits f)

/-- R104: the acceptance step in full, in every deployment; with nothing presented nothing changes; in every other phase the port is
ignored, and the word is kept nowhere (R38). -/
def Obligations.AcceptanceStep : Prop :=
  (∀ (e : Env) (s : State) (word : CmdWord) (rest : List HostMove),
    s.host = .present word :: rest → phaseReady s.seq.phase = true →
      (stepIn e s).seq =
        match decode word with
        | .reserved _ => { s.seq with rspValid := false, faultCode := 1#3, phase := .fault }
        | .command i =>
          if s.seq.phase = .uninit ∧ i ≠ .init then
            { s.seq with rspValid := false, faultCode := 2#3, phase := .fault }
          else if s.seq.phase = .idle ∧ i = .init then
            { s.seq with rspValid := false, faultCode := 3#3, phase := .fault }
          else
            match i with
            | .init => { s.seq with rspValid := false, phase := .iCtrl }
            | .read r k =>
              if r.toNat < 2 ^ e.cfg.rowBits ∧ k.toNat < 2 ^ e.cfg.colBits then
                { s.seq with rspValid := false, row := r, col := k, phase := .rRow }
              else { s.seq with rspValid := false, faultCode := 4#3, phase := .fault }
            | .write r k v =>
              if r.toNat < 2 ^ e.cfg.rowBits ∧ k.toNat < 2 ^ e.cfg.colBits ∧ v.toNat < 2 ^ e.cfg.width.bits then
                { s.seq with rspValid := false, row := r, col := k, wdata := v, phase := .wRow }
              else { s.seq with rspValid := false, faultCode := 4#3, phase := .fault }) ∧
  (∀ (e : Env) (s : State), phaseReady s.seq.phase = true → s.host.head? = none ∨ s.host.head? = some .idle →
    (stepIn e s).seq = s.seq) ∧
  (∀ (e : Env) (s : State) (word : CmdWord) (rest : List HostMove),
    s.host = .present word :: rest → phaseReady s.seq.phase = false →
      (stepIn e s).seq = (stepIn e { s with host := [] }).seq ∧ (stepIn e s).host = rest)

/-- R104, last sentence but one, and R67: inside a command the step does not depend on what the host presents. Two runs are compared
at one step index, so the draws of the two steps are taken as the same inputs (R35): the model's reading, log entry 3. -/
def Obligations.PortIgnoredWhileBusy : Prop :=
  ∀ s u s' u' : State, { s with host := u.host } = u → phaseBusy s.seq.phase = true →
    s.host.head? ≠ some .reset → u.host.head? ≠ some .reset →
      step s = .next s' → step u = .next u' → { s' with host := u'.host } = u'

/-- R104, R131: with no command presented the sequencer stays as it is in `UNINIT` and in `IDLE`. -/
def Obligations.QuietReadyStateStays : Prop :=
  ∀ s : State, phaseReady s.seq.phase = true → s.host.head? = none ∨ s.host.head? = some .idle →
    ∃ t, step s = .next t ∧ t.seq = s.seq ∧ t.host = s.host.tail

/-! ### Encoding (30_encoding.md) -/

/-- R103: `Decode` by its four cases, `Encode` by its three, and the two laws. -/
def Obligations.DecodeAndEncodeAgree : Prop :=
  (∀ w : CmdWord, w &&& 0xFFFFFFFF#32 = 0x00000000#32 → decode w = .command .init) ∧
  (∀ w : CmdWord, w &&& 0xFF0000FF#32 = 0x40000000#32 →
    decode w = .command (.read (w.extractLsb' 16 8) (w.extractLsb' 8 8))) ∧
  (∀ w : CmdWord, w &&& 0xFF000000#32 = 0x80000000#32 →
    decode w = .command (.write (w.extractLsb' 16 8) (w.extractLsb' 8 8) (w.extractLsb' 0 8))) ∧
  (∀ w : CmdWord, w &&& 0xFFFFFFFF#32 ≠ 0x00000000#32 → w &&& 0xFF0000FF#32 ≠ 0x40000000#32 →
    w &&& 0xFF000000#32 ≠ 0x80000000#32 → ∃ why, decode w = .reserved why) ∧
  encode .init = 0x00000000#32 ∧
  (∀ r k : Byte, encode (.read r k) = 0x40000000#32 ||| (r.setWidth 32 <<< 16) ||| (k.setWidth 32 <<< 8)) ∧
  (∀ r k v : Byte, encode (.write r k v) =
    0x80000000#32 ||| (r.setWidth 32 <<< 16) ||| (k.setWidth 32 <<< 8) ||| v.setWidth 32) ∧
  (∀ i : Instr, decode (encode i) = .command i) ∧
  (∀ (w : CmdWord) (i : Instr), decode w = .command i → encode i = w)

/-- R109: which words are reserved, field by field; accepted, such a word raises `ERR_RESERVED` and makes no pin action. -/
def Obligations.ReservedWordsExactly : Prop :=
  (∀ w : CmdWord, (∃ why, decode w = .reserved why) ↔
    (w.extractLsb' 30 2 = 0b11#2 ∨ w.extractLsb' 24 6 ≠ 0#6 ∨
      (w.extractLsb' 30 2 = 0b00#2 ∧
        (w.extractLsb' 16 8 ≠ 0#8 ∨ w.extractLsb' 8 8 ≠ 0#8 ∨ w.extractLsb' 0 8 ≠ 0#8)) ∨
      (w.extractLsb' 30 2 = 0b01#2 ∧ w.extractLsb' 0 8 ≠ 0#8))) ∧
  (∀ (s : State) (word : CmdWord) (rest : List HostMove) (why : ReservedWord),
    s.host = .present word :: rest → decode word = .reserved why → phaseReady s.seq.phase = true →
      ∃ t, step s = .next t ∧ t.seq = { s.seq with faultCode := 1#3, phase := .fault, rspValid := false })

/-- 95_test_vectors.md V10 to V12: words written out from the encoding, and what they decode to. -/
def Obligations.SpecWordsDecode : Prop :=
  decode 0x00000000#32 = .command .init ∧
  decode 0x80251BA7#32 = .command (.write 0x25#8 0x1B#8 0xA7#8) ∧
  decode 0x8003030F#32 = .command (.write 3#8 3#8 0xF#8) ∧
  decode 0x40251B00#32 = .command (.read 0x25#8 0x1B#8) ∧
  decode 0x403F3F00#32 = .command (.read 0x3F#8 0x3F#8) ∧
  decode 0xC0000000#32 = .reserved .reservedOp ∧
  decode 0x41251B00#32 = .reserved .zeroField ∧
  decode 0x00010000#32 = .reserved .unusedField ∧
  decode 0x40000001#32 = .reserved .unusedField

/-! ### Address decomposition (20_memory.md) -/

/-- R70: the pattern carries logical bit `i` on port bit `lineMap[i]`, and 0 on every other port bit. -/
def Obligations.PatternBitsFollowLineMap : Prop :=
  ∀ (c : Cfg) (a : Byte), c.Valid → a.toNat < 2 ^ c.addrBits →
    (∀ (i : Nat) (h : i < c.lineMap.length), (addrToLines c a).getLsbD (c.lineMap[i]).val = a.getLsbD i) ∧
    (∀ j : Nat, (∀ port ∈ c.lineMap, port.val ≠ j) → (addrToLines c a).getLsbD j = false)

/-- R73: distinct indices have distinct patterns, and the inverse reconstructs the index; so the device sees the row and the
column that were presented (R75). -/
def Obligations.PatternsReversible : Prop :=
  ∀ (c : Cfg) (a b : Byte), c.Valid → a.toNat < 2 ^ c.addrBits → b.toNat < 2 ^ c.addrBits →
    (addrToLines c a = addrToLines c b → a = b) ∧ linesToAddr c (addrToLines c a) = a ∧
    (a.toNat < c.rows → rowOfLines c (addrToLines c a) = a) ∧
    (a.toNat < c.cols → colOfLines c (addrToLines c a) = a)

/-- R71: the observed wiring as the table, as a formula, and the examples of the rule. -/
def Obligations.ObservedWiring : Prop :=
  Cfg.observed66.lineMap = [0, 1, 4, 5, 6, 7] ∧
  (∀ a : Byte, a.toNat < 64 →
    addrToLines Cfg.observed66 a = (a &&& 0x03#8) ||| ((a &&& 0x3C#8) <<< 2)) ∧
  addrToLines Cfg.observed66 0x00#8 = 0x00#8 ∧ addrToLines Cfg.observed66 0x03#8 = 0x03#8 ∧
  addrToLines Cfg.observed66 0x04#8 = 0x10#8 ∧ addrToLines Cfg.observed66 0x25#8 = 0x91#8 ∧
  addrToLines Cfg.observed66 0x2A#8 = 0xA2#8 ∧
  addrToLines Cfg.observed66 0x3F#8 = 0xF3#8

/-! ### Acceptance and faults (30_encoding.md R104, 60_exceptions.md) -/

/-- R201 to R204: the four faults, where each is raised and what it records. -/
def Obligations.AcceptanceFaults : Prop :=
  (∀ (s : State) (word : CmdWord) (rest : List HostMove) (why : ReservedWord),
    s.host = .present word :: rest → decode word = .reserved why →
      s.seq.phase = .uninit ∨ s.seq.phase = .idle →
        ∃ t, step s = .next t ∧ t.seq = { s.seq with faultCode := 1#3, phase := .fault, rspValid := false }) ∧
  (∀ (s : State) (i : Instr), s.seq.phase = .uninit → i ≠ .init →
    ∃ t, exec i s = .next t ∧ t.seq = { s.seq with faultCode := 2#3, phase := .fault, rspValid := false }) ∧
  (∀ s : State, s.seq.phase = .idle →
    ∃ t, exec .init s = .next t ∧ t.seq = { s.seq with faultCode := 3#3, phase := .fault, rspValid := false }) ∧
  (∀ (e : Env) (s : State) (i : Instr), s.seq.phase = .idle → ¬ i.WellFormed e.cfg →
    (commandEdge e i s).seq = { s.seq with faultCode := 4#3, phase := .fault, rspValid := false })

/-- R208: one accepted word raises at most one fault, the first of reserved, lifecycle, operand; in every deployment. -/
def Obligations.FaultPriority : Prop :=
  ∀ (e : Env) (s : State) (word : CmdWord) (rest : List HostMove),
    s.host = .present word :: rest → phaseReady s.seq.phase = true →
      (∀ why, decode word = .reserved why → (stepIn e s).seq.faultCode = 1#3) ∧
      (∀ i, decode word = .command i → s.seq.phase = .uninit → i ≠ .init → (stepIn e s).seq.faultCode = 2#3) ∧
      (∀ i, decode word = .command i → s.seq.phase = .idle → i = .init → (stepIn e s).seq.faultCode = 3#3) ∧
      (∀ i, decode word = .command i → s.seq.phase = .idle → i ≠ .init → ¬ i.WellFormed e.cfg →
        (stepIn e s).seq.faultCode = 4#3) ∧
      (∀ i, decode word = .command i →
        (s.seq.phase = .uninit ∧ i = .init) ∨ (s.seq.phase = .idle ∧ i ≠ .init ∧ i.WellFormed e.cfg) →
          (stepIn e s).seq.faultCode = s.seq.faultCode ∧ (stepIn e s).seq.phase ≠ .fault)

/-- R210, R211: a faulting acceptance changes `FAULT_CODE`, `PHASE` and `RSP_VALID` and nothing else of the sequencer, no cell of
the device, leaves the idle or the released pins, and every later step but a reset leaves the sequencer unchanged. -/
def Obligations.FaultEntryPrecise : Prop :=
  ∀ s t : State, InRun Config.env s → phaseReady s.seq.phase = true → s.host.head? ≠ some .reset →
    step s = .next t → t.seq.phase = .fault →
      t.seq = { s.seq with faultCode := t.seq.faultCode, phase := .fault, rspValid := false } ∧
      t.seq.faultCode ≠ 0#3 ∧ MemKept s t ∧ t.cmdReady = false ∧ t.busy = false ∧
      t.faultPort = t.seq.faultCode ∧ pinsOf t.seq = idlePins ∧
      ∀ u, t.host.head? ≠ some .reset → step t = .next u → u.seq = t.seq

/-- R210, R212: in `FAULT` every step but a reset leaves the sequencer unchanged whatever the host presents, so nothing is accepted;
reset is the exit, before whatever step it comes. -/
def Obligations.FaultOnlyLeftByReset : Prop :=
  ∀ s : State, s.seq.phase = .fault → ∃ t, step s = .next t ∧
    (s.host.head? ≠ some .reset →
      t.seq = s.seq ∧ t.host = s.host.tail ∧ t.cmdReady = false ∧ t.busy = false) ∧
    (s.host.head? = some .reset → t.seq.phase = .uninit ∧ t.seq.faultCode = 0#3 ∧ t.seq.inited = false ∧
      ∀ n key, memValue Config.env n t.dev key = maskW Config.env.cfg (Config.env.draw n (.cell key)))

/-! ### INIT (40_init.md) -/

/-- R104, R130: INIT accepted in `UNINIT`. -/
def Obligations.InitAccepted : Prop :=
  ∀ s : State, s.seq.phase = .uninit →
    ∃ t, exec .init s = .next t ∧ t.seq = { s.seq with rspValid := false, phase := .iCtrl }

/-- R132, R133, R134: the three pin actions of INIT; in `I_CTRL` the device sees no falling edge, so no latch changes and no
cell is stored. That the device is no longer free in the very step of `I_CTRL` (R76) is the model's reading, log entry 8. -/
def Obligations.InitPinActions : Prop :=
  (∀ s : State, s.seq.phase = .iCtrl → ∃ t, exec .init s = .next t ∧
    t.seq = { s.seq with rasN := true, casN := true, weN := true, ctrlOe := true, phase := .iAddr } ∧
    (s.seq.rasN = true → s.seq.casN = true → s.seq.weN = true →
      t.dev.rowL = s.dev.rowL ∧ t.dev.colL = s.dev.colL ∧ t.dev.mem = s.dev.mem)) ∧
  (∀ s : State, s.seq.phase = .iAddr → ∃ t, exec .init s = .next t ∧
    t.seq = { s.seq with addrOut := 0#8, addrOe := true, phase := .iData }) ∧
  (∀ s : State, s.seq.phase = .iData → ∃ t, exec .init s = .next t ∧
    t.seq = { s.seq with dqOe := false, inited := true, phase := .idle })

/-- R135: the state four clock edges after INIT is presented in `UNINIT`. -/
def Obligations.InitCompletes : Prop :=
  ∀ s : State, InRun Config.env s → s.seq.phase = .uninit →
    ∃ t, execFor 4 .init s = .next t ∧
      t.seq = { s.seq with
        phase := .idle, inited := true, ctrlOe := true, rasN := true, casN := true, weN := true
        addrOe := true, addrOut := 0#8, dqOe := false, rspValid := false } ∧
      ∀ n key, memValue Config.env n t.dev key = maskW Config.env.cfg (Config.env.draw n (.cell key))

/-- The frame of INIT, in the phases in which it acts: which registers it leaves alone, and that it touches no cell (R62, R130). -/
def Obligations.InitFrame : Prop :=
  ∀ s t : State, InRun Config.env s → phaseReady s.seq.phase = true ∨ phaseOfInit s.seq.phase = true →
    exec .init s = .next t →
      t.seq.row = s.seq.row ∧ t.seq.col = s.seq.col ∧ t.seq.wdata = s.seq.wdata ∧ t.seq.rdata = s.seq.rdata ∧
      t.seq.cnt = s.seq.cnt ∧ t.seq.dqOut = s.seq.dqOut ∧
      (t.seq.phase ≠ .fault → t.seq.faultCode = s.seq.faultCode) ∧
      (s.seq.phase ≠ .iData → t.seq.inited = s.seq.inited) ∧
      (phaseReady s.seq.phase = false → t.seq.rspValid = s.seq.rspValid) ∧
      (phaseReady s.seq.phase = true → pinsOf t.seq = pinsOf s.seq ∧ t.seq.ctrlOe = s.seq.ctrlOe ∧
        t.seq.addrOe = s.seq.addrOe ∧ t.seq.addrOut = s.seq.addrOut) ∧
      MemKept s t ∧ AgedBy 1 s t ∧ t.host = s.host ∧ t.contention = s.contention

/-! ### WRITE (41_write.md) -/

/-- R104, R106: WRITE with operands in range, accepted in `IDLE`, latches the three operands. -/
def Obligations.WriteAccepted : Prop :=
  ∀ (s : State) (r k v : Byte), s.seq.phase = .idle → (Instr.write r k v).WellFormed Config.env.cfg →
    ∃ t, exec (.write r k v) s = .next t ∧
      t.seq = { s.seq with rspValid := false, row := r, col := k, wdata := v, phase := .wRow }

/-- R140 to R147: the pin action of each phase of WRITE before the release. -/
def Obligations.WritePinActions : Prop :=
  ∀ (s : State) (r k v : Byte),
    (s.seq.phase = .wRow → ∃ t, exec (.write r k v) s = .next t ∧
      t.seq = { s.seq with addrOut := addrToLines Config.env.cfg s.seq.row, phase := .wRas }) ∧
    (s.seq.phase = .wRas → ∃ t, exec (.write r k v) s = .next t ∧
      t.seq = { s.seq with rasN := false, phase := .wData }) ∧
    (s.seq.phase = .wData → ∃ t, exec (.write r k v) s = .next t ∧
      t.seq = { s.seq with dqOut := s.seq.wdata, phase := .wDrive }) ∧
    (s.seq.phase = .wDrive → ∃ t, exec (.write r k v) s = .next t ∧
      t.seq = { s.seq with dqOe := true, phase := .wWe }) ∧
    (s.seq.phase = .wWe → ∃ t, exec (.write r k v) s = .next t ∧
      t.seq = { s.seq with weN := false, phase := .wCol }) ∧
    (s.seq.phase = .wCol → ∃ t, exec (.write r k v) s = .next t ∧
      t.seq = { s.seq with addrOut := addrToLines Config.env.cfg s.seq.col, phase := .wCas }) ∧
    (s.seq.phase = .wCas → ∃ t, exec (.write r k v) s = .next t ∧
      t.seq = { s.seq with casN := false, phase := .wX1 })

/-- R148, R150: the release action of each of the last three phases, for each of the four orders SZE, SEZ, ZES, EZS. -/
def Obligations.ReleaseActionsByOrder : Prop :=
  ∀ (e : Env) (s : State) (r k v : Byte),
    (s.seq.phase = .wX1 → (commandEdge e (.write r k v) s).seq =
      match e.cfg.writeRelease, e.cfg.weRelease with
      | .strobesFirst, .releaseThenWe => { s.seq with rasN := true, casN := true, phase := .wX2 }
      | .strobesFirst, .weThenRelease => { s.seq with rasN := true, casN := true, phase := .wX2 }
      | .dataFirst, .releaseThenWe => { s.seq with dqOe := false, phase := .wX2 }
      | .dataFirst, .weThenRelease => { s.seq with weN := true, phase := .wX2 }) ∧
    (s.seq.phase = .wX2 → (commandEdge e (.write r k v) s).seq =
      match e.cfg.writeRelease, e.cfg.weRelease with
      | .strobesFirst, .releaseThenWe => { s.seq with dqOe := false, phase := .wX3 }
      | .strobesFirst, .weThenRelease => { s.seq with weN := true, phase := .wX3 }
      | .dataFirst, .releaseThenWe => { s.seq with weN := true, phase := .wX3 }
      | .dataFirst, .weThenRelease => { s.seq with dqOe := false, phase := .wX3 }) ∧
    (s.seq.phase = .wX3 → (commandEdge e (.write r k v) s).seq =
      match e.cfg.writeRelease, e.cfg.weRelease with
      | .strobesFirst, .releaseThenWe => { s.seq with weN := true, phase := .idle }
      | .strobesFirst, .weThenRelease => { s.seq with dqOe := false, phase := .idle }
      | .dataFirst, .releaseThenWe => { s.seq with rasN := true, casN := true, phase := .idle }
      | .dataFirst, .weThenRelease => { s.seq with rasN := true, casN := true, phase := .idle })

/-- R152: the levels `RAS_N CAS_N WE_N DQ_OE` after each release step for each order, and for which orders "WE asserted implies
data driven" holds throughout (C1: exactly those with `weRelease = WEThenRelease`). -/
def Obligations.ReleaseLevels : Prop :=
  ∀ (e : Env) (s : State), InRun e s → s.seq.phase = .wX1 → NoResetDuring 3 s →
    pinsOf s.seq = ⟨false, false, false, true⟩ ∧
    pinsOf (runIn e 3 s).seq = ⟨true, true, true, false⟩ ∧
    (e.cfg.writeRelease = .strobesFirst → e.cfg.weRelease = .releaseThenWe →
      pinsOf (runIn e 1 s).seq = ⟨true, true, false, true⟩ ∧ pinsOf (runIn e 2 s).seq = ⟨true, true, false, false⟩) ∧
    (e.cfg.writeRelease = .strobesFirst → e.cfg.weRelease = .weThenRelease →
      pinsOf (runIn e 1 s).seq = ⟨true, true, false, true⟩ ∧ pinsOf (runIn e 2 s).seq = ⟨true, true, true, true⟩) ∧
    (e.cfg.writeRelease = .dataFirst → e.cfg.weRelease = .releaseThenWe →
      pinsOf (runIn e 1 s).seq = ⟨false, false, false, false⟩ ∧
        pinsOf (runIn e 2 s).seq = ⟨false, false, true, false⟩) ∧
    (e.cfg.writeRelease = .dataFirst → e.cfg.weRelease = .weThenRelease →
      pinsOf (runIn e 1 s).seq = ⟨false, false, true, true⟩ ∧
        pinsOf (runIn e 2 s).seq = ⟨false, false, true, false⟩) ∧
    ((∀ n, n ≤ 3 → WeImpliesDriven (runIn e n s).seq) ↔ e.cfg.weRelease = .weThenRelease)

/-- R147: the step of `W_CAS` latches the column and stores `WDATA` in the cell of `ROW` and `COL`, with age 0; every other cell
keeps its value and is one edge older; the device does not drive. -/
def Obligations.WriteStoresItsCell : Prop :=
  ∀ (s : State) (r k v : Byte), InRun Config.env s → s.seq.phase = .wCas →
    ∃ t, exec (.write r k v) s = .next t ∧ t.seq = { s.seq with casN := false, phase := .wX1 } ∧
      t.dev.rowL = some s.seq.row ∧ t.dev.colL = some s.seq.col ∧
      Memory.stored t.dev.mem (cellKey s.seq.row s.seq.col) = some s.seq.wdata ∧
      Table.find t.dev.ages (cellKey s.seq.row s.seq.col) = some 0 ∧
      (∀ other, other ≠ cellKey s.seq.row s.seq.col →
        Memory.stored t.dev.mem other = Memory.stored s.dev.mem other ∧
        Table.find t.dev.ages other = (Table.find s.dev.ages other).map (· + 1)) ∧
      drivenCell t.seq t.dev = none

/-- R154: the state eleven clock edges after WRITE is presented in `IDLE`; the cell written has age 3. -/
def Obligations.WriteCompletes : Prop :=
  ∀ (s : State) (r k v : Byte), InRun Config.env s → s.seq.phase = .idle →
    (Instr.write r k v).WellFormed Config.env.cfg →
      ∃ t, execFor 11 (.write r k v) s = .next t ∧
        t.seq = { s.seq with
          row := r, col := k, wdata := v, rspValid := false
          dqOut := v, addrOut := addrToLines Config.env.cfg k } ∧
        t.seq.phase = .idle ∧ pinsOf t.seq = idlePins ∧
        Memory.stored t.dev.mem (cellKey r k) = some v ∧ Table.find t.dev.ages (cellKey r k) = some 3 ∧
        (∀ other, other ≠ cellKey r k →
          Memory.stored t.dev.mem other = Memory.stored s.dev.mem other ∧
          Table.find t.dev.ages other = (Table.find s.dev.ages other).map (· + 11))

/-- R153: contention is never recorded under SZE, SEZ and ZES, and is recorded by the step of `W_X1` under EZS. -/
def Obligations.ContentionOnlyUnderEZS : Prop :=
  ∀ (e : Env) (s : State), e.cfg.Valid → InRun e s →
    (¬ OrderEZS e.cfg → (stepIn e s).contention = s.contention) ∧
    (OrderEZS e.cfg → s.seq.phase = .wX1 → NoResetDuring 1 s → (stepIn e s).contention = true)

/-- The frame of WRITE, in the phases in which it acts. The one store is that of `W_CAS`, to the cell the device has latched:
the row latch of the state and the column on the address lines, as `DevStore` computes it. -/
def Obligations.WriteFrame : Prop :=
  ∀ (s t : State) (r k v : Byte), InRun Config.env s →
    phaseReady s.seq.phase = true ∨ phaseOfWrite s.seq.phase = true → exec (.write r k v) s = .next t →
      t.seq.rdata = s.seq.rdata ∧ t.seq.cnt = s.seq.cnt ∧ t.seq.inited = s.seq.inited ∧
      t.seq.ctrlOe = s.seq.ctrlOe ∧ t.seq.addrOe = s.seq.addrOe ∧
      (t.seq.phase ≠ .fault → t.seq.faultCode = s.seq.faultCode) ∧
      (phaseReady s.seq.phase = true → pinsOf t.seq = pinsOf s.seq ∧ t.seq.addrOut = s.seq.addrOut ∧
        t.seq.dqOut = s.seq.dqOut) ∧
      (phaseReady s.seq.phase = false → t.seq.row = s.seq.row ∧ t.seq.col = s.seq.col ∧
        t.seq.wdata = s.seq.wdata ∧ t.seq.rspValid = s.seq.rspValid) ∧
      (s.seq.phase ≠ .wRow → s.seq.phase ≠ .wCol → t.seq.addrOut = s.seq.addrOut) ∧
      (s.seq.phase ≠ .wData → t.seq.dqOut = s.seq.dqOut) ∧
      (∀ cell, (s.seq.phase = .wCas →
          openCell (latchCol Config.env s.edge s.seq t.seq (latchRow Config.env s.edge s.seq t.seq s.dev)) ≠ some cell) →
        Memory.stored t.dev.mem cell = Memory.stored s.dev.mem cell ∧
        Table.find t.dev.ages cell = (Table.find s.dev.ages cell).map (· + 1)) ∧
      t.host = s.host

/-! ### READ (42_read.md) -/

/-- R104, R106: READ with operands in range, accepted in `IDLE`, latches the two operands. -/
def Obligations.ReadAccepted : Prop :=
  ∀ (s : State) (r k : Byte), s.seq.phase = .idle → (Instr.read r k).WellFormed Config.env.cfg →
    ∃ t, exec (.read r k) s = .next t ∧
      t.seq = { s.seq with rspValid := false, row := r, col := k, phase := .rRow }

/-- R160 to R168: the action of each phase of READ. -/
def Obligations.ReadPinActions : Prop :=
  ∀ (s : State) (r k : Byte),
    (s.seq.phase = .rRow → ∃ t, exec (.read r k) s = .next t ∧
      t.seq = { s.seq with addrOut := addrToLines Config.env.cfg s.seq.row, phase := .rRas }) ∧
    (s.seq.phase = .rRas → ∃ t, exec (.read r k) s = .next t ∧
      t.seq = { s.seq with rasN := false, phase := .rCol }) ∧
    (s.seq.phase = .rCol → ∃ t, exec (.read r k) s = .next t ∧
      t.seq = { s.seq with addrOut := addrToLines Config.env.cfg s.seq.col, phase := .rCas }) ∧
    (s.seq.phase = .rCas → ∃ t, exec (.read r k) s = .next t ∧
      t.seq = { s.seq with
        casN := false, cnt := BitVec.ofNat 8 Config.env.cfg.settleCycles
        phase := if Config.env.cfg.settleCycles = 0 then .rSample else .rSettle }) ∧
    (s.seq.phase = .rSettle → ∃ t, exec (.read r k) s = .next t ∧
      t.seq = { s.seq with cnt := s.seq.cnt - 1#8, phase := if s.seq.cnt = 1#8 then .rSample else .rSettle }) ∧
    (s.seq.phase = .rSample → ∃ t, exec (.read r k) s = .next t ∧
      t.seq = { s.seq with
        rdata := BitVec.ofNat 8 ((dqIn Config.env s.edge s.seq s.dev).toNat % 2 ^ Config.env.cfg.width.bits)
        phase := .rRel }) ∧
    (s.seq.phase = .rRel → ∃ t, exec (.read r k) s = .next t ∧
      t.seq = { s.seq with rasN := true, casN := true, rspValid := true, phase := .idle } ∧
      (s.seq.rasN = false → s.seq.casN = false → s.seq.ctrlOe = true → t.dev.rowL = none ∧ t.dev.colL = none))

/-- R170: the state `7 + settleCycles` clock edges after READ is presented in `IDLE`; `u` is the state before the step of
`R_SAMPLE`. No cell is changed by the command. -/
def Obligations.ReadCompletes : Prop :=
  ∀ (s : State) (r k : Byte), InRun Config.env s → s.seq.phase = .idle →
    (Instr.read r k).WellFormed Config.env.cfg →
      ∃ u t, execFor (5 + Config.env.cfg.settleCycles) (.read r k) s = .next u ∧ u.seq.phase = .rSample ∧
        execFor (7 + Config.env.cfg.settleCycles) (.read r k) s = .next t ∧
        t.seq = { s.seq with
          row := r, col := k, rdata := maskW Config.env.cfg (dqIn Config.env u.edge u.seq u.dev)
          rspValid := true, cnt := 0#8, addrOut := addrToLines Config.env.cfg k } ∧
        t.seq.phase = .idle ∧ pinsOf t.seq = idlePins ∧
        MemKept s t ∧ AgedBy (7 + Config.env.cfg.settleCycles) s t

/-- R166: exactly `settleCycles` steps are taken in `R_SETTLE` between the step of `R_CAS` and that of `R_SAMPLE`, and `CNT` counts
down to 0 without wrapping. -/
def Obligations.SettleLoopIsCounted : Prop :=
  ∀ (e : Env) (s : State), e.cfg.Valid → s.seq.phase = .rCas → NoResetDuring (1 + e.cfg.settleCycles) s →
    (∀ n, n < e.cfg.settleCycles →
      (runIn e (1 + n) s).seq.phase = .rSettle ∧ (runIn e (1 + n) s).seq.cnt.toNat = e.cfg.settleCycles - n) ∧
    (runIn e (1 + e.cfg.settleCycles) s).seq.phase = .rSample ∧
    (runIn e (1 + e.cfg.settleCycles) s).seq.cnt = 0#8

/-- R81, R85: a sample of a cell that was stored, is younger than `retention` and is not stuck gives the stored value, when the
settle delay suffices. -/
def Obligations.SampleReturnsFreshStore : Prop :=
  ∀ (e : Env) (s : State) (v : Byte), InRun e s → s.seq.phase = .rSample → NoResetDuring 1 s → SettleOK e →
    NotStuck e (cellKey s.seq.row s.seq.col) → Fresh e s.dev (cellKey s.seq.row s.seq.col) →
    Memory.stored s.dev.mem (cellKey s.seq.row s.seq.col) = some v →
      (stepIn e s).seq.rdata = v

/-- R169: with a settle delay that is too short a READ completes as always, without a fault, and returns a draw. -/
def Obligations.ShortSettleReadsDraw : Prop :=
  ∀ (e : Env) (s : State) (r k : Byte), e.cfg.Valid → e.cfg.settleCycles < e.minSettle → InRun e s →
    s.seq.phase = .idle → (Instr.read r k).WellFormed e.cfg →
      (issue e (.read r k) s).seq.phase = .idle ∧ (issue e (.read r k) s).seq.faultCode = 0#3 ∧
      (issue e (.read r k) s).seq.rspValid = true ∧
      (issue e (.read r k) s).seq.rdata = maskW e.cfg (e.draw (s.edge + 5 + e.cfg.settleCycles) .sample)

/-- R85, the source's round-trip law: a WRITE and a READ of one cell, back to back from an idle state, return the value written,
in every deployment with a sufficient settle delay, a retention of at least `9 + settleCycles` edges (R173 b) and a cell that is not
stuck. The idle state is one that a run from reset comes to (R253), or any that meets the invariant. The READ is held on the port
from the edge after the WRITE's acceptance to its own acceptance, eleven edges (R245). -/
def Obligations.WriteReadRoundTrip : Prop :=
  ∀ (e : Env) (s : State) (r k v : Byte), e.cfg.Valid → InRun e s → s.seq.phase = .idle →
    (Instr.write r k v).WellFormed e.cfg → SettleOK e → NotStuck e (cellKey r k) →
    9 + e.cfg.settleCycles ≤ e.retention →
      ∃ t, runIn e (11 + (7 + e.cfg.settleCycles))
          { s with
            host := .present (encode (.write r k v)) :: List.replicate 11 (.present (encode (.read r k))) } = t ∧
        t.seq.rdata = v ∧ t.seq.rspValid = true ∧ t.seq.phase = .idle ∧ t.host = []

/-- The frame of READ, in the phases in which it acts: it stores nothing (R68). -/
def Obligations.ReadFrame : Prop :=
  ∀ (s t : State) (r k : Byte), InRun Config.env s →
    phaseReady s.seq.phase = true ∨ phaseOfRead s.seq.phase = true → exec (.read r k) s = .next t →
      t.seq.wdata = s.seq.wdata ∧ t.seq.inited = s.seq.inited ∧ t.seq.weN = s.seq.weN ∧
      t.seq.ctrlOe = s.seq.ctrlOe ∧ t.seq.addrOe = s.seq.addrOe ∧ t.seq.dqOut = s.seq.dqOut ∧
      t.seq.dqOe = s.seq.dqOe ∧
      (t.seq.phase ≠ .fault → t.seq.faultCode = s.seq.faultCode) ∧
      (phaseReady s.seq.phase = true → pinsOf t.seq = pinsOf s.seq ∧ t.seq.addrOut = s.seq.addrOut ∧
        t.seq.cnt = s.seq.cnt) ∧
      (phaseReady s.seq.phase = false → t.seq.row = s.seq.row ∧ t.seq.col = s.seq.col) ∧
      (phaseReady s.seq.phase = false → s.seq.phase ≠ .rRel → t.seq.rspValid = s.seq.rspValid) ∧
      (s.seq.phase ≠ .rSample → t.seq.rdata = s.seq.rdata) ∧
      (s.seq.phase ≠ .rCas → s.seq.phase ≠ .rSettle → t.seq.cnt = s.seq.cnt) ∧
      (s.seq.phase ≠ .rRow → s.seq.phase ≠ .rCol → t.seq.addrOut = s.seq.addrOut) ∧
      MemKept s t ∧ AgedBy 1 s t ∧ t.host = s.host ∧ t.contention = s.contention

/-! ### Command lengths (70_reset_and_hazards.md) -/

/-- R248: from acceptance to the return to `IDLE`, INIT takes 4 steps, WRITE 11, READ `7 + settleCycles`, and no fewer; a faulting
acceptance takes 1, whichever of the four faults it is. -/
def Obligations.CommandLengths : Prop :=
  ∀ (e : Env) (s : State), e.cfg.Valid →
    (s.seq.phase = .uninit → (issue e .init s).seq.phase = .idle) ∧
    (∀ r k v, s.seq.phase = .idle → (Instr.write r k v).WellFormed e.cfg →
      (issue e (.write r k v) s).seq.phase = .idle) ∧
    (∀ r k, s.seq.phase = .idle → (Instr.read r k).WellFormed e.cfg →
      (issue e (.read r k) s).seq.phase = .idle) ∧
    commandSteps e.cfg .init = 4 ∧ (∀ r k v, commandSteps e.cfg (.write r k v) = 11) ∧
    (∀ r k, commandSteps e.cfg (.read r k) = 7 + e.cfg.settleCycles) ∧
    (∀ (i : Instr) (n : Nat), i.WellFormed e.cfg →
      (s.seq.phase = .uninit ∧ i = .init) ∨ (s.seq.phase = .idle ∧ i ≠ .init) →
      0 < n → n < commandSteps e.cfg i →
        phaseBusy (runIn e n { s with host := [.present (encode i)] }).seq.phase = true) ∧
    (∀ (word : CmdWord) (why : ReservedWord), decode word = .reserved why → phaseReady s.seq.phase = true →
      (runIn e 1 { s with host := [.present word] }).seq.phase = .fault) ∧
    (∀ i : Instr, (s.seq.phase = .uninit ∧ i ≠ .init) ∨ (s.seq.phase = .idle ∧ i = .init) ∨
      (s.seq.phase = .idle ∧ ¬ i.WellFormed e.cfg) →
        (runIn e 1 { s with host := [.present (encode i)] }).seq.phase = .fault)

/-- R245: a word presented while `cmd_ready = 0` is neither dropped nor queued: it waits, and under the host's duties the sequencer
comes within one command's length to a ready phase with that word on the port, whatever the word. Under the premises of R253: the
duties up to the accepting edge, no reset up to that edge included, no fault recorded at the start. -/
def Obligations.WaitingWordIsAccepted : Prop :=
  ∀ (e : Env) (s : State) (word : CmdWord) (rest : List HostMove), e.cfg.Valid → InRun e s →
    s.host = .present word :: rest → NoResetDuring (max 10 (6 + e.cfg.settleCycles) + 1) s →
    HostDuties e (max 10 (6 + e.cfg.settleCycles)) s → NoFault e 0 s →
      ∃ m, m ≤ max 10 (6 + e.cfg.settleCycles) ∧ phaseReady (runIn e m s).seq.phase = true ∧
        (runIn e m s).host.head? = some (.present word) ∧
        ∀ k, k < m → phaseBusy (runIn e k s).seq.phase = true ∧ (runIn e k s).host.head? = some (.present word)

/-! ### The device (20_memory.md, 10_state.md) -/

/-- R77, R78: what the falling and rising strobes do to the two latches. -/
def Obligations.DeviceLatches : Prop :=
  ∀ (e : Env) (n : Nat) (b a : Seq) (d : Device), a.ctrlOe = true →
    (b.rasN = true → a.rasN = false → (react e n b a d).rowL =
      some (if a.addrOe then rowOfLines e.cfg a.addrOut else maskBits e.cfg.rowBits (e.draw n .rowPins))) ∧
    (b.rasN = false → a.rasN = true → (react e n b a d).rowL = none) ∧
    (b.rasN = a.rasN → (react e n b a d).rowL = d.rowL) ∧
    (b.casN = true → a.casN = false → a.rasN = false → (react e n b a d).colL =
      some (if a.addrOe then colOfLines e.cfg a.addrOut else maskBits e.cfg.colBits (e.draw n .colPins))) ∧
    (b.casN = false → a.casN = true → (react e n b a d).colL = none) ∧
    (b.casN = a.casN → (react e n b a d).colL = d.colL)

/-- R79: a falling CAS with WE low stores the data lines, or a draw when nobody drives them, in the cell the latches address,
and its age is 0; every other cell keeps its value and is one edge older. -/
def Obligations.DeviceStores : Prop :=
  ∀ (e : Env) (n : Nat) (b a : Seq) (d : Device) (r k : Byte), a.ctrlOe = true →
    b.casN = true → a.casN = false → a.rasN = false → a.weN = false →
    (react e n b a d).rowL = some r → (react e n b a d).colL = some k →
      Memory.stored (react e n b a d).mem (cellKey r k) =
        some (if a.dqOe then a.dqOut else maskW e.cfg (e.draw n .store)) ∧
      Table.find (react e n b a d).ages (cellKey r k) = some 0 ∧
      ∀ other, other ≠ cellKey r k →
        Memory.stored (react e n b a d).mem other = Memory.stored d.mem other ∧
        Table.find (react e n b a d).ages other = (Table.find d.ages other).map (· + 1)

/-- R80: the device drives by level, the value of the cell its latches address; contention is that with `DQ_OE = 1`; the mark is
recorded exactly then and never cleared. -/
def Obligations.DeviceDrivesByLevel : Prop :=
  (∀ (q : Seq) (d : Device) (key : Nat), drivenCell q d = some key ↔
    (q.ctrlOe = true ∧ q.rasN = false ∧ q.casN = false ∧ q.weN = true ∧
      ∃ r k, d.rowL = some r ∧ d.colL = some k ∧ key = cellKey r k)) ∧
  (∀ (e : Env) (s : State) (key : Nat), drivenCell s.seq s.dev = some key → s.seq.dqOe = false →
    dataLines e s = .byDevice (cellValue e s.edge s.dev key)) ∧
  (∀ s t : State, step s = .next t →
    (s.contention = true → t.contention = true) ∧
    (s.host.head? ≠ some .reset →
      (t.contention = true ↔ s.contention = true ∨
        ((∃ key, drivenCell t.seq t.dev = some key) ∧ t.seq.dqOe = true))))

/-- R81: `dq_in` is the driven cell's value when the device alone drives and the settle delay suffices, else a draw. -/
def Obligations.SampledLevels : Prop :=
  ∀ (e : Env) (n : Nat) (q : Seq) (d : Device),
    (∀ key, drivenCell q d = some key → q.dqOe = false → SettleOK e → dqIn e n q d = cellValue e n d key) ∧
    (drivenCell q d = none ∨ q.dqOe = true ∨ ¬ SettleOK e → dqIn e n q d = maskW e.cfg (e.draw n .sample))

/-- R82, R83, R36: what a cell holds. Below `retention` the stored value; from `retention` on, and where nothing was stored since
reset, a draw of the step; a stuck cell always its stuck value. -/
def Obligations.CellContents : Prop :=
  ∀ (e : Env) (n : Nat) (d : Device) (key : Nat),
    (∀ v, Table.find e.stuck key = some v → cellValue e n d key = maskW e.cfg v) ∧
    (NotStuck e key → cellValue e n d key = memValue e n d key) ∧
    (∀ v age, Memory.stored d.mem key = some v → Table.find d.ages key = some age → age < e.retention →
      memValue e n d key = v) ∧
    (∀ age, Table.find d.ages key = some age → e.retention ≤ age →
      memValue e n d key = maskW e.cfg (e.draw n (.cell key))) ∧
    (Memory.stored d.mem key = none → memValue e n d key = maskW e.cfg (e.draw n (.cell key)))

/-- R76: while `CTRL_OE = 0` every cell is a draw and both latches are draws. -/
def Obligations.FloatingDeviceIsFree : Prop :=
  ∀ s t : State, step s = .next t → s.host.head? ≠ some .reset → t.seq.ctrlOe = false →
    (∀ n key, memValue Config.env n t.dev key = maskW Config.env.cfg (Config.env.draw n (.cell key))) ∧
    t.dev.rowL = (Config.env.drawLatch s.edge .rowLatch).map (maskBits Config.env.cfg.rowBits) ∧
    t.dev.colL = (Config.env.drawLatch s.edge .colLatch).map (maskBits Config.env.cfg.colBits)

/-- R37: every clock edge makes every cell one older, except the cell stored in that step, whose age becomes 0. -/
def Obligations.CellsAge : Prop :=
  ∀ s t : State, InRun Config.env s → step s = .next t → s.host.head? ≠ some .reset → ∀ key,
    (s.seq.phase = .wCas ∧ key = cellKey s.seq.row s.seq.col → Table.find t.dev.ages key = some 0) ∧
    (¬ (s.seq.phase = .wCas ∧ key = cellKey s.seq.row s.seq.col) →
      Table.find t.dev.ages key = (Table.find s.dev.ages key).map (· + 1))

/-! ### Who writes what: whole-machine rules (10_state.md) -/

/-- R28 to R31: in which phases, and otherwise only under reset, a step changes a pin register; in any state. -/
def Obligations.PinRegisterWriters : Prop :=
  ∀ s t : State, step s = .next t → s.host.head? ≠ some .reset →
    (t.seq.rasN = false → s.seq.rasN = true → s.seq.phase = .wRas ∨ s.seq.phase = .rRas) ∧
    (t.seq.casN = false → s.seq.casN = true → s.seq.phase = .wCas ∨ s.seq.phase = .rCas) ∧
    (t.seq.weN = false → s.seq.weN = true → s.seq.phase = .wWe) ∧
    (t.seq.rasN = true → s.seq.rasN = false →
      s.seq.phase ∈ [Phase.iCtrl, .rRel, .wX1, .wX2, .wX3] ∧ t.seq.casN = true) ∧
    (t.seq.casN = true → s.seq.casN = false →
      s.seq.phase ∈ [Phase.iCtrl, .rRel, .wX1, .wX2, .wX3] ∧ t.seq.rasN = true) ∧
    (t.seq.weN = true → s.seq.weN = false → s.seq.phase ∈ [Phase.iCtrl, .wX1, .wX2, .wX3]) ∧
    (t.seq.ctrlOe ≠ s.seq.ctrlOe → s.seq.phase = .iCtrl ∧ t.seq.ctrlOe = true) ∧
    (t.seq.addrOe ≠ s.seq.addrOe → s.seq.phase = .iAddr ∧ t.seq.addrOe = true) ∧
    (t.seq.addrOut ≠ s.seq.addrOut →
      s.seq.phase = .iAddr ∧ t.seq.addrOut = 0#8 ∨
      (s.seq.phase = .wRow ∨ s.seq.phase = .rRow) ∧ t.seq.addrOut = addrToLines Config.env.cfg s.seq.row ∨
      (s.seq.phase = .wCol ∨ s.seq.phase = .rCol) ∧ t.seq.addrOut = addrToLines Config.env.cfg s.seq.col) ∧
    (t.seq.dqOut ≠ s.seq.dqOut → s.seq.phase = .wData ∧ t.seq.dqOut = s.seq.wdata) ∧
    (t.seq.dqOe = true → s.seq.dqOe = false → s.seq.phase = .wDrive) ∧
    (t.seq.dqOe = false → s.seq.dqOe = true → s.seq.phase ∈ [Phase.iData, .wX1, .wX2, .wX3])

/-- R241: when a strobe falls, the pattern it latches was on the driven address lines before the step and stays in it. -/
def Obligations.AddressBeforeStrobe : Prop :=
  ∀ s t : State, InRun Config.env s → step s = .next t → s.host.head? ≠ some .reset →
    (s.seq.rasN = true → t.seq.rasN = false →
      s.seq.addrOe = true ∧ s.seq.addrOut = addrToLines Config.env.cfg s.seq.row ∧
        t.seq.addrOut = s.seq.addrOut ∧ t.seq.row = s.seq.row) ∧
    (s.seq.casN = true → t.seq.casN = false →
      s.seq.addrOe = true ∧ s.seq.addrOut = addrToLines Config.env.cfg s.seq.col ∧
        t.seq.addrOut = s.seq.addrOut ∧ t.seq.col = s.seq.col ∧ s.seq.rasN = false)

/-- R240: the value is in the latch before the lines are driven, the lines are driven before WE falls, WE is low before the column
is presented, and all of it is in place before CAS falls in a write. -/
def Obligations.WriteOrderIntoDevice : Prop :=
  ∀ s t : State, InRun Config.env s → step s = .next t → s.host.head? ≠ some .reset →
    (s.seq.dqOe = false → t.seq.dqOe = true → s.seq.dqOut = s.seq.wdata ∧ t.seq.dqOut = s.seq.wdata) ∧
    (s.seq.weN = true → t.seq.weN = false →
      s.seq.dqOe = true ∧ t.seq.dqOe = true ∧ s.seq.dqOut = s.seq.wdata ∧ s.seq.casN = true) ∧
    (s.seq.casN = true → t.seq.casN = false → s.seq.weN = false →
      t.seq.weN = false ∧ s.seq.dqOe = true ∧ t.seq.dqOe = true ∧ s.seq.dqOut = s.seq.wdata ∧
        s.seq.addrOut = addrToLines Config.env.cfg s.seq.col) ∧
    (s.seq.phase = .wCol →
      s.seq.weN = false ∧ t.seq.weN = false ∧ s.seq.dqOe = true ∧ t.seq.dqOe = true ∧
        s.seq.dqOut = s.seq.wdata ∧ s.seq.casN = true ∧ t.seq.casN = true ∧
        t.seq.addrOut = addrToLines Config.env.cfg s.seq.col) ∧
    (s.seq.phase = .wCas →
      s.seq.weN = false ∧ t.seq.weN = false ∧ s.seq.dqOe = true ∧ t.seq.dqOe = true ∧
        s.seq.dqOut = s.seq.wdata ∧ t.seq.dqOut = s.seq.wdata ∧ s.seq.casN = true ∧ t.seq.casN = false ∧
        s.seq.addrOut = addrToLines Config.env.cfg s.seq.col ∧ t.seq.addrOut = s.seq.addrOut)

/-- R25 to R27: which steps write `INITED`, `RSP_VALID` and `FAULT_CODE`; in any state. -/
def Obligations.FlagWriters : Prop :=
  ∀ s t : State, step s = .next t → s.host.head? ≠ some .reset →
    (t.seq.inited ≠ s.seq.inited → s.seq.phase = .iData ∧ t.seq.inited = true) ∧
    (t.seq.rspValid = true → s.seq.rspValid = false → s.seq.phase = .rRel) ∧
    (phaseReady s.seq.phase = true → (∃ word rest, s.host = .present word :: rest) → t.seq.rspValid = false) ∧
    (t.seq.rspValid = false → s.seq.rspValid = true →
      phaseReady s.seq.phase = true ∧ ∃ word rest, s.host = .present word :: rest) ∧
    (t.seq.faultCode ≠ s.seq.faultCode →
      phaseReady s.seq.phase = true ∧ t.seq.phase = .fault ∧ ∃ word rest, s.host = .present word :: rest)

/-- R21, R22, R34: which steps write the four data registers and the settle counter; in any state. -/
def Obligations.DataRegisterWriters : Prop :=
  ∀ s t : State, step s = .next t → s.host.head? ≠ some .reset →
    (t.seq.row ≠ s.seq.row ∨ t.seq.col ≠ s.seq.col → s.seq.phase = .idle ∧ ∃ word rest,
      s.host = .present word :: rest ∧
        (decode word = .command (.read t.seq.row t.seq.col) ∨
          ∃ v, decode word = .command (.write t.seq.row t.seq.col v))) ∧
    (t.seq.wdata ≠ s.seq.wdata → s.seq.phase = .idle ∧ ∃ word rest r k,
      s.host = .present word :: rest ∧ decode word = .command (.write r k t.seq.wdata)) ∧
    (t.seq.rdata ≠ s.seq.rdata → s.seq.phase = .rSample) ∧
    (t.seq.cnt ≠ s.seq.cnt → s.seq.phase = .rCas ∨ s.seq.phase = .rSettle)

/-! ### Invariants (10_state.md R39) -/

/-- The reset state meets the invariant. -/
def Obligations.ResetMeetsInvariant : Prop := Inv Config.env State.reset

/-- Every step of the machine, from every state that meets the invariant, whatever the host does, gives a state that meets it. -/
def Obligations.StepKeepsInvariant : Prop :=
  ∀ s t : State, Inv Config.env s → step s = .next t → Inv Config.env t

/-- R39, R253: every state a run from reset comes to meets the invariant, whatever the host does; and in every state that meets it
the clauses (a) to (h) of R39 hold. -/
def Obligations.InvariantGivesR39 : Prop :=
  (∀ (e : Env) (s : State), e.cfg.Valid → Reached e s → Inv e s) ∧
  ∀ (e : Env) (s : State), Inv e s →
    (s.seq.phase = .uninit →
      s.seq.ctrlOe = false ∧ s.seq.addrOe = false ∧ s.seq.dqOe = false ∧ s.seq.inited = false) ∧
    (s.seq.phase = .idle → s.seq.ctrlOe = true ∧ s.seq.addrOe = true ∧ s.seq.dqOe = false ∧
      s.seq.rasN = true ∧ s.seq.casN = true ∧ s.seq.weN = true ∧ s.seq.inited = true) ∧
    (s.seq.dqOe = true → s.seq.phase ∈ [Phase.wWe, .wCol, .wCas, .wX1, .wX2, .wX3]) ∧
    (s.seq.weN = false → s.seq.phase ∈ [Phase.wCol, .wCas, .wX1, .wX2, .wX3]) ∧
    (phaseOfRead s.seq.phase = true → s.seq.dqOe = false ∧ s.seq.weN = true) ∧
    (s.seq.casN = false → s.seq.rasN = false) ∧
    (s.seq.phase = .fault →
      (s.seq.ctrlOe = false ∧ s.seq.addrOe = false ∧ s.seq.dqOe = false) ∨
      (s.seq.ctrlOe = true ∧ s.seq.addrOe = true ∧ s.seq.dqOe = false ∧
        s.seq.rasN = true ∧ s.seq.casN = true ∧ s.seq.weN = true)) ∧
    (∀ j, (∀ port ∈ e.cfg.lineMap, port.val ≠ j) → s.seq.addrOut.getLsbD j = false)

/-- The device's memory keeps its canonical form in every step from every state, met by a run or not. -/
def Obligations.MemoryFormKept : Prop :=
  ∀ s t : State, Memory.wf s.dev.mem → step s = .next t → Memory.wf t.dev.mem

/-! ### The host macros (43_harness_macros.md) -/

/-- R181: FILL and VERIFY visit every cell of the grid exactly once, `ROWS * COLS` in all. -/
def Obligations.GridCoveredOnce : Prop :=
  ∀ c : Cfg, c.Valid →
    (gridCells c).length = c.rows * c.cols ∧ (gridCells c).Nodup ∧
    ∀ r k : Byte, (r, k) ∈ gridCells c ↔ r.toNat < c.rows ∧ k.toNat < c.cols

/-- R183: a WAIT from `IDLE` leaves the sequencer and every stored value alone, and makes every cell older by its clock edges;
`WAIT 0` is no edge at all. -/
def Obligations.WaitOnlyAges : Prop :=
  ∀ (e : Env) (s : State) (duration : Nat), e.cfg.Valid → InRun e s → s.seq.phase = .idle →
    (waitFor e duration s).seq = s.seq ∧ MemKept s (waitFor e duration s) ∧
    AgedBy (duration * e.waitUnit) s (waitFor e duration s) ∧
    (waitFor e duration s).edge = s.edge + duration * e.waitUnit ∧
    waitFor e 0 s = { s with host := [] }

/-- R186: the bounds between the counters of a report, for values of `W` bits; `xorDiff` is 0 exactly when the values agree. -/
def Obligations.ReportBounds : Prop :=
  ∀ (c : Cfg) (maxDiffs : Nat) (expected : Byte) (readings : List Reading),
    expected.toNat < 2 ^ c.width.bits → (∀ x ∈ readings, x.actual.toNat < 2 ^ c.width.bits) →
      (∀ x ∈ readings, (x.actual ^^^ expected = 0#8 ↔ x.actual = expected) ∧
        popcount (x.actual ^^^ expected) ≤ c.width.bits) ∧
      (reportOf maxDiffs expected readings).bitDiffCount ≤
        c.width.bits * (reportOf maxDiffs expected readings).byteDiffCount ∧
      (reportOf maxDiffs expected readings).byteDiffCount ≤ (reportOf maxDiffs expected readings).bitDiffCount ∧
      (reportOf maxDiffs expected readings).byteDiffCount ≤ (reportOf maxDiffs expected readings).cellsCompared ∧
      (reportOf maxDiffs expected readings).cellsCompared = readings.length

/-- R190 (b): the counts of a report do not depend on the order in which the cells were read. -/
def Obligations.ReportOrderIndependent : Prop :=
  ∀ (maxDiffs : Nat) (expected : Byte) (xs ys : List Reading), xs.Perm ys →
    (reportOf maxDiffs expected xs).byteDiffCount = (reportOf maxDiffs expected ys).byteDiffCount ∧
    (reportOf maxDiffs expected xs).bitDiffCount = (reportOf maxDiffs expected ys).bitDiffCount

/-- R190 (a): FILL and then VERIFY of one pattern, at once and from an idle state, find no diverging cell, with a sufficient settle
delay, no stuck cell and a retention above the bound of the rule. The idle state is one that a run from reset comes to (R253), or any
that meets the invariant. -/
def Obligations.FillThenVerifyAgree : Prop :=
  ∀ (e : Env) (s : State) (pattern : Byte), e.cfg.Valid → InRun e s → s.seq.phase = .idle →
    pattern.toNat < 2 ^ e.cfg.width.bits → SettleOK e → e.stuck = [] →
    e.cfg.rows * e.cfg.cols * (11 + 7 + e.cfg.settleCycles) ≤ e.retention →
      (verify e pattern (fill e pattern s)).1.byteDiffCount = 0 ∧
      (verify e pattern (fill e pattern s)).1.bitDiffCount = 0 ∧
      (verify e pattern (fill e pattern s)).1.cellsCompared = e.cfg.rows * e.cfg.cols
end

