-- ==== Sys2Proof/Laws/State.lean ====
section
/-! SUPPORT. One lemma per field per update: the pin updates of the sequencer, the updates of the device, a clock edge and a reset of the whole state. -/

namespace Sys2Proof.Machine

@[simp] theorem raiseFault_phase (f : Fault) (q : Seq) : (raiseFault f q).phase = .fault := rfl
@[simp] theorem raiseFault_row (f : Fault) (q : Seq) : (raiseFault f q).row = q.row := rfl
@[simp] theorem raiseFault_col (f : Fault) (q : Seq) : (raiseFault f q).col = q.col := rfl
@[simp] theorem raiseFault_wdata (f : Fault) (q : Seq) : (raiseFault f q).wdata = q.wdata := rfl
@[simp] theorem raiseFault_rdata (f : Fault) (q : Seq) : (raiseFault f q).rdata = q.rdata := rfl
@[simp] theorem raiseFault_cnt (f : Fault) (q : Seq) : (raiseFault f q).cnt = q.cnt := rfl
@[simp] theorem raiseFault_inited (f : Fault) (q : Seq) : (raiseFault f q).inited = q.inited := rfl
@[simp] theorem raiseFault_rspValid (f : Fault) (q : Seq) : (raiseFault f q).rspValid = false := rfl
@[simp] theorem raiseFault_faultCode (f : Fault) (q : Seq) : (raiseFault f q).faultCode = faultBits f := rfl
@[simp] theorem raiseFault_rasN (f : Fault) (q : Seq) : (raiseFault f q).rasN = q.rasN := rfl
@[simp] theorem raiseFault_casN (f : Fault) (q : Seq) : (raiseFault f q).casN = q.casN := rfl
@[simp] theorem raiseFault_weN (f : Fault) (q : Seq) : (raiseFault f q).weN = q.weN := rfl
@[simp] theorem raiseFault_ctrlOe (f : Fault) (q : Seq) : (raiseFault f q).ctrlOe = q.ctrlOe := rfl
@[simp] theorem raiseFault_addrOut (f : Fault) (q : Seq) : (raiseFault f q).addrOut = q.addrOut := rfl
@[simp] theorem raiseFault_addrOe (f : Fault) (q : Seq) : (raiseFault f q).addrOe = q.addrOe := rfl
@[simp] theorem raiseFault_dqOut (f : Fault) (q : Seq) : (raiseFault f q).dqOut = q.dqOut := rfl
@[simp] theorem raiseFault_dqOe (f : Fault) (q : Seq) : (raiseFault f q).dqOe = q.dqOe := rfl

@[simp] theorem presentIndex_phase (c : Cfg) (index : Byte) (q : Seq) : (presentIndex c index q).phase = q.phase := rfl
@[simp] theorem presentIndex_row (c : Cfg) (index : Byte) (q : Seq) : (presentIndex c index q).row = q.row := rfl
@[simp] theorem presentIndex_col (c : Cfg) (index : Byte) (q : Seq) : (presentIndex c index q).col = q.col := rfl
@[simp] theorem presentIndex_wdata (c : Cfg) (index : Byte) (q : Seq) : (presentIndex c index q).wdata = q.wdata := rfl
@[simp] theorem presentIndex_rdata (c : Cfg) (index : Byte) (q : Seq) : (presentIndex c index q).rdata = q.rdata := rfl
@[simp] theorem presentIndex_cnt (c : Cfg) (index : Byte) (q : Seq) : (presentIndex c index q).cnt = q.cnt := rfl
@[simp] theorem presentIndex_inited (c : Cfg) (index : Byte) (q : Seq) : (presentIndex c index q).inited = q.inited := rfl
@[simp] theorem presentIndex_rspValid (c : Cfg) (index : Byte) (q : Seq) : (presentIndex c index q).rspValid = q.rspValid := rfl
@[simp] theorem presentIndex_faultCode (c : Cfg) (index : Byte) (q : Seq) : (presentIndex c index q).faultCode = q.faultCode := rfl
@[simp] theorem presentIndex_rasN (c : Cfg) (index : Byte) (q : Seq) : (presentIndex c index q).rasN = q.rasN := rfl
@[simp] theorem presentIndex_casN (c : Cfg) (index : Byte) (q : Seq) : (presentIndex c index q).casN = q.casN := rfl
@[simp] theorem presentIndex_weN (c : Cfg) (index : Byte) (q : Seq) : (presentIndex c index q).weN = q.weN := rfl
@[simp] theorem presentIndex_ctrlOe (c : Cfg) (index : Byte) (q : Seq) : (presentIndex c index q).ctrlOe = q.ctrlOe := rfl
@[simp] theorem presentIndex_addrOut (c : Cfg) (index : Byte) (q : Seq) : (presentIndex c index q).addrOut = addrToLines c index := rfl
@[simp] theorem presentIndex_addrOe (c : Cfg) (index : Byte) (q : Seq) : (presentIndex c index q).addrOe = q.addrOe := rfl
@[simp] theorem presentIndex_dqOut (c : Cfg) (index : Byte) (q : Seq) : (presentIndex c index q).dqOut = q.dqOut := rfl
@[simp] theorem presentIndex_dqOe (c : Cfg) (index : Byte) (q : Seq) : (presentIndex c index q).dqOe = q.dqOe := rfl

@[simp] theorem assertRas_phase (q : Seq) : (assertRas q).phase = q.phase := rfl
@[simp] theorem assertRas_row (q : Seq) : (assertRas q).row = q.row := rfl
@[simp] theorem assertRas_col (q : Seq) : (assertRas q).col = q.col := rfl
@[simp] theorem assertRas_wdata (q : Seq) : (assertRas q).wdata = q.wdata := rfl
@[simp] theorem assertRas_rdata (q : Seq) : (assertRas q).rdata = q.rdata := rfl
@[simp] theorem assertRas_cnt (q : Seq) : (assertRas q).cnt = q.cnt := rfl
@[simp] theorem assertRas_inited (q : Seq) : (assertRas q).inited = q.inited := rfl
@[simp] theorem assertRas_rspValid (q : Seq) : (assertRas q).rspValid = q.rspValid := rfl
@[simp] theorem assertRas_faultCode (q : Seq) : (assertRas q).faultCode = q.faultCode := rfl
@[simp] theorem assertRas_rasN (q : Seq) : (assertRas q).rasN = false := rfl
@[simp] theorem assertRas_casN (q : Seq) : (assertRas q).casN = q.casN := rfl
@[simp] theorem assertRas_weN (q : Seq) : (assertRas q).weN = q.weN := rfl
@[simp] theorem assertRas_ctrlOe (q : Seq) : (assertRas q).ctrlOe = q.ctrlOe := rfl
@[simp] theorem assertRas_addrOut (q : Seq) : (assertRas q).addrOut = q.addrOut := rfl
@[simp] theorem assertRas_addrOe (q : Seq) : (assertRas q).addrOe = q.addrOe := rfl
@[simp] theorem assertRas_dqOut (q : Seq) : (assertRas q).dqOut = q.dqOut := rfl
@[simp] theorem assertRas_dqOe (q : Seq) : (assertRas q).dqOe = q.dqOe := rfl

@[simp] theorem assertCas_phase (q : Seq) : (assertCas q).phase = q.phase := rfl
@[simp] theorem assertCas_row (q : Seq) : (assertCas q).row = q.row := rfl
@[simp] theorem assertCas_col (q : Seq) : (assertCas q).col = q.col := rfl
@[simp] theorem assertCas_wdata (q : Seq) : (assertCas q).wdata = q.wdata := rfl
@[simp] theorem assertCas_rdata (q : Seq) : (assertCas q).rdata = q.rdata := rfl
@[simp] theorem assertCas_cnt (q : Seq) : (assertCas q).cnt = q.cnt := rfl
@[simp] theorem assertCas_inited (q : Seq) : (assertCas q).inited = q.inited := rfl
@[simp] theorem assertCas_rspValid (q : Seq) : (assertCas q).rspValid = q.rspValid := rfl
@[simp] theorem assertCas_faultCode (q : Seq) : (assertCas q).faultCode = q.faultCode := rfl
@[simp] theorem assertCas_rasN (q : Seq) : (assertCas q).rasN = q.rasN := rfl
@[simp] theorem assertCas_casN (q : Seq) : (assertCas q).casN = false := rfl
@[simp] theorem assertCas_weN (q : Seq) : (assertCas q).weN = q.weN := rfl
@[simp] theorem assertCas_ctrlOe (q : Seq) : (assertCas q).ctrlOe = q.ctrlOe := rfl
@[simp] theorem assertCas_addrOut (q : Seq) : (assertCas q).addrOut = q.addrOut := rfl
@[simp] theorem assertCas_addrOe (q : Seq) : (assertCas q).addrOe = q.addrOe := rfl
@[simp] theorem assertCas_dqOut (q : Seq) : (assertCas q).dqOut = q.dqOut := rfl
@[simp] theorem assertCas_dqOe (q : Seq) : (assertCas q).dqOe = q.dqOe := rfl

@[simp] theorem releaseStrobes_phase (q : Seq) : (releaseStrobes q).phase = q.phase := rfl
@[simp] theorem releaseStrobes_row (q : Seq) : (releaseStrobes q).row = q.row := rfl
@[simp] theorem releaseStrobes_col (q : Seq) : (releaseStrobes q).col = q.col := rfl
@[simp] theorem releaseStrobes_wdata (q : Seq) : (releaseStrobes q).wdata = q.wdata := rfl
@[simp] theorem releaseStrobes_rdata (q : Seq) : (releaseStrobes q).rdata = q.rdata := rfl
@[simp] theorem releaseStrobes_cnt (q : Seq) : (releaseStrobes q).cnt = q.cnt := rfl
@[simp] theorem releaseStrobes_inited (q : Seq) : (releaseStrobes q).inited = q.inited := rfl
@[simp] theorem releaseStrobes_rspValid (q : Seq) : (releaseStrobes q).rspValid = q.rspValid := rfl
@[simp] theorem releaseStrobes_faultCode (q : Seq) : (releaseStrobes q).faultCode = q.faultCode := rfl
@[simp] theorem releaseStrobes_rasN (q : Seq) : (releaseStrobes q).rasN = true := rfl
@[simp] theorem releaseStrobes_casN (q : Seq) : (releaseStrobes q).casN = true := rfl
@[simp] theorem releaseStrobes_weN (q : Seq) : (releaseStrobes q).weN = q.weN := rfl
@[simp] theorem releaseStrobes_ctrlOe (q : Seq) : (releaseStrobes q).ctrlOe = q.ctrlOe := rfl
@[simp] theorem releaseStrobes_addrOut (q : Seq) : (releaseStrobes q).addrOut = q.addrOut := rfl
@[simp] theorem releaseStrobes_addrOe (q : Seq) : (releaseStrobes q).addrOe = q.addrOe := rfl
@[simp] theorem releaseStrobes_dqOut (q : Seq) : (releaseStrobes q).dqOut = q.dqOut := rfl
@[simp] theorem releaseStrobes_dqOe (q : Seq) : (releaseStrobes q).dqOe = q.dqOe := rfl

@[simp] theorem releaseData_phase (q : Seq) : (releaseData q).phase = q.phase := rfl
@[simp] theorem releaseData_row (q : Seq) : (releaseData q).row = q.row := rfl
@[simp] theorem releaseData_col (q : Seq) : (releaseData q).col = q.col := rfl
@[simp] theorem releaseData_wdata (q : Seq) : (releaseData q).wdata = q.wdata := rfl
@[simp] theorem releaseData_rdata (q : Seq) : (releaseData q).rdata = q.rdata := rfl
@[simp] theorem releaseData_cnt (q : Seq) : (releaseData q).cnt = q.cnt := rfl
@[simp] theorem releaseData_inited (q : Seq) : (releaseData q).inited = q.inited := rfl
@[simp] theorem releaseData_rspValid (q : Seq) : (releaseData q).rspValid = q.rspValid := rfl
@[simp] theorem releaseData_faultCode (q : Seq) : (releaseData q).faultCode = q.faultCode := rfl
@[simp] theorem releaseData_rasN (q : Seq) : (releaseData q).rasN = q.rasN := rfl
@[simp] theorem releaseData_casN (q : Seq) : (releaseData q).casN = q.casN := rfl
@[simp] theorem releaseData_weN (q : Seq) : (releaseData q).weN = q.weN := rfl
@[simp] theorem releaseData_ctrlOe (q : Seq) : (releaseData q).ctrlOe = q.ctrlOe := rfl
@[simp] theorem releaseData_addrOut (q : Seq) : (releaseData q).addrOut = q.addrOut := rfl
@[simp] theorem releaseData_addrOe (q : Seq) : (releaseData q).addrOe = q.addrOe := rfl
@[simp] theorem releaseData_dqOut (q : Seq) : (releaseData q).dqOut = q.dqOut := rfl
@[simp] theorem releaseData_dqOe (q : Seq) : (releaseData q).dqOe = false := rfl

@[simp] theorem releaseWe_phase (q : Seq) : (releaseWe q).phase = q.phase := rfl
@[simp] theorem releaseWe_row (q : Seq) : (releaseWe q).row = q.row := rfl
@[simp] theorem releaseWe_col (q : Seq) : (releaseWe q).col = q.col := rfl
@[simp] theorem releaseWe_wdata (q : Seq) : (releaseWe q).wdata = q.wdata := rfl
@[simp] theorem releaseWe_rdata (q : Seq) : (releaseWe q).rdata = q.rdata := rfl
@[simp] theorem releaseWe_cnt (q : Seq) : (releaseWe q).cnt = q.cnt := rfl
@[simp] theorem releaseWe_inited (q : Seq) : (releaseWe q).inited = q.inited := rfl
@[simp] theorem releaseWe_rspValid (q : Seq) : (releaseWe q).rspValid = q.rspValid := rfl
@[simp] theorem releaseWe_faultCode (q : Seq) : (releaseWe q).faultCode = q.faultCode := rfl
@[simp] theorem releaseWe_rasN (q : Seq) : (releaseWe q).rasN = q.rasN := rfl
@[simp] theorem releaseWe_casN (q : Seq) : (releaseWe q).casN = q.casN := rfl
@[simp] theorem releaseWe_weN (q : Seq) : (releaseWe q).weN = true := rfl
@[simp] theorem releaseWe_ctrlOe (q : Seq) : (releaseWe q).ctrlOe = q.ctrlOe := rfl
@[simp] theorem releaseWe_addrOut (q : Seq) : (releaseWe q).addrOut = q.addrOut := rfl
@[simp] theorem releaseWe_addrOe (q : Seq) : (releaseWe q).addrOe = q.addrOe := rfl
@[simp] theorem releaseWe_dqOut (q : Seq) : (releaseWe q).dqOut = q.dqOut := rfl
@[simp] theorem releaseWe_dqOe (q : Seq) : (releaseWe q).dqOe = q.dqOe := rfl

@[simp] theorem ageDevice_mem (d : Device) : (ageDevice d).mem = d.mem := rfl
@[simp] theorem ageDevice_ages (d : Device) : (ageDevice d).ages = ageAll d.ages := rfl
@[simp] theorem ageDevice_rowL (d : Device) : (ageDevice d).rowL = d.rowL := rfl
@[simp] theorem ageDevice_colL (d : Device) : (ageDevice d).colL = d.colL := rfl

@[simp] theorem storeAt_mem (key : Nat) (v : Byte) (d : Device) : (storeAt key v d).mem = Table.put d.mem key v := rfl
@[simp] theorem storeAt_ages (key : Nat) (v : Byte) (d : Device) : (storeAt key v d).ages = Table.put d.ages key 0 := rfl
@[simp] theorem storeAt_rowL (key : Nat) (v : Byte) (d : Device) : (storeAt key v d).rowL = d.rowL := rfl
@[simp] theorem storeAt_colL (key : Nat) (v : Byte) (d : Device) : (storeAt key v d).colL = d.colL := rfl

@[simp] theorem forgetCell_mem (key : Nat) (d : Device) : (forgetCell key d).mem = Table.drop d.mem key := rfl
@[simp] theorem forgetCell_ages (key : Nat) (d : Device) : (forgetCell key d).ages = Table.drop d.ages key := rfl
@[simp] theorem forgetCell_rowL (key : Nat) (d : Device) : (forgetCell key d).rowL = d.rowL := rfl
@[simp] theorem forgetCell_colL (key : Nat) (d : Device) : (forgetCell key d).colL = d.colL := rfl

@[simp] theorem floatDevice_mem (e : Env) (n : Nat) (d : Device) : (floatDevice e n d).mem = [] := rfl
@[simp] theorem floatDevice_ages (e : Env) (n : Nat) (d : Device) : (floatDevice e n d).ages = [] := rfl

@[simp] theorem edgeTo_seq (e : Env) (s : State) (q : Seq) : (edgeTo e s q).seq = q := rfl
@[simp] theorem edgeTo_dev (e : Env) (s : State) (q : Seq) : (edgeTo e s q).dev = react e s.edge s.seq q s.dev := rfl
@[simp] theorem edgeTo_contention (e : Env) (s : State) (q : Seq) :
    (edgeTo e s q).contention = (s.contention || contends q (react e s.edge s.seq q s.dev)) := rfl
@[simp] theorem edgeTo_host (e : Env) (s : State) (q : Seq) : (edgeTo e s q).host = s.host := rfl
@[simp] theorem edgeTo_edge (e : Env) (s : State) (q : Seq) : (edgeTo e s q).edge = s.edge + 1 := rfl

@[simp] theorem resetEdge_seq (s : State) : (resetEdge s).seq = Seq.reset := rfl
@[simp] theorem resetEdge_dev (s : State) : (resetEdge s).dev = Device.reset := rfl
@[simp] theorem resetEdge_contention (s : State) : (resetEdge s).contention = s.contention := rfl
@[simp] theorem resetEdge_host (s : State) : (resetEdge s).host = s.host := rfl
@[simp] theorem resetEdge_edge (s : State) : (resetEdge s).edge = s.edge + 1 := rfl

end Sys2Proof.Machine
end

