-- ==== Sys2Proof/Laws/Memory.lean ====
section
/-! SUPPORT. The laws of the lists in key order: reading after writing, and that every operation on the device's memory keeps its canonical form. -/

namespace Sys2Proof.Machine

theorem Table.find_put_same {α : Type} (t : List (Nat × α)) (key : Nat) (x : α) :
    Table.find (Table.put t key x) key = some x := by
  induction t with
  | nil => simp [Table.put, Table.find]
  | cons a t ih =>
    obtain ⟨k, v⟩ := a
    simp only [Table.put]
    split
    · simp [Table.find]
    · split
      · simp [Table.find]
      · rename_i h
        simp [Table.find, Ne.symm h, ih]

theorem Table.find_put_other {α : Type} (t : List (Nat × α)) (key other : Nat) (x : α) (h : other ≠ key) :
    Table.find (Table.put t key x) other = Table.find t other := by
  induction t with
  | nil => simp [Table.put, Table.find, h.symm]
  | cons a t ih =>
    obtain ⟨k, v⟩ := a
    simp only [Table.put]
    split
    · simp [Table.find, h.symm]
    · split
      · rename_i hk
        subst hk
        simp [Table.find, h.symm]
      · simp [Table.find, ih]

theorem Table.find_drop_other {α : Type} (t : List (Nat × α)) (key other : Nat) (h : other ≠ key) :
    Table.find (Table.drop t key) other = Table.find t other := by
  induction t with
  | nil => rfl
  | cons a t ih =>
    obtain ⟨k, v⟩ := a
    simp only [Table.drop]
    split
    · rename_i hk
      subst hk
      simp [Table.find, h.symm]
    · simp [Table.find, ih]

/-- A lookup in the aged list is the lookup, one older (R37). -/
theorem find_ageAll (ages : List (Nat × Nat)) (key : Nat) :
    Table.find (ageAll ages) key = (Table.find ages key).map (· + 1) := by
  induction ages with
  | nil => rfl
  | cons a t ih =>
    obtain ⟨k, v⟩ := a
    simp only [ageAll, List.map_cons, Table.find] at ih ⊢
    split
    · rfl
    · exact ih

@[simp] theorem keys_ageAll (ages : List (Nat × Nat)) : (ageAll ages).map Prod.fst = ages.map Prod.fst := by
  simp [ageAll]

/-- The keys after a write depend on the keys before it only. -/
theorem keys_put {α β : Type} (t : List (Nat × α)) (u : List (Nat × β)) (key : Nat) (x : α) (y : β)
    (h : t.map Prod.fst = u.map Prod.fst) :
    (Table.put t key x).map Prod.fst = (Table.put u key y).map Prod.fst := by
  induction t generalizing u with
  | nil =>
    cases u with
    | nil => rfl
    | cons b u => simp at h
  | cons a t ih =>
    cases u with
    | nil => simp at h
    | cons b u =>
      obtain ⟨k, v⟩ := a
      obtain ⟨k', w⟩ := b
      simp only [List.map_cons, List.cons.injEq] at h
      obtain ⟨rfl, ht⟩ := h
      simp only [Table.put]
      split
      · simp [ht]
      · split
        · simp [ht]
        · simp [ih u ht]

theorem keys_drop {α β : Type} (t : List (Nat × α)) (u : List (Nat × β)) (key : Nat)
    (h : t.map Prod.fst = u.map Prod.fst) :
    (Table.drop t key).map Prod.fst = (Table.drop u key).map Prod.fst := by
  induction t generalizing u with
  | nil =>
    cases u with
    | nil => rfl
    | cons b u => simp at h
  | cons a t ih =>
    cases u with
    | nil => simp at h
    | cons b u =>
      obtain ⟨k, v⟩ := a
      obtain ⟨k', w⟩ := b
      simp only [List.map_cons, List.cons.injEq] at h
      obtain ⟨rfl, ht⟩ := h
      simp only [Table.drop]
      split
      · exact ht
      · simp [ih u ht]

/-- An entry after a write is the written one or was there before. -/
theorem Table.mem_put {α : Type} (t : List (Nat × α)) (key : Nat) (x : α) (p : Nat × α)
    (h : p ∈ Table.put t key x) : p = (key, x) ∨ p ∈ t := by
  induction t with
  | nil => simpa [Table.put] using h
  | cons a t ih =>
    obtain ⟨k, v⟩ := a
    simp only [Table.put] at h
    split at h
    · simpa using h
    · split at h
      · rcases List.mem_cons.mp h with h | h
        · exact .inl h
        · exact .inr (List.mem_cons_of_mem _ h)
      · rcases List.mem_cons.mp h with h | h
        · exact .inr (by simp [h])
        · exact (ih h).imp_right (List.mem_cons_of_mem _)

theorem Table.mem_drop {α : Type} (t : List (Nat × α)) (key : Nat) (p : Nat × α) (h : p ∈ Table.drop t key) :
    p ∈ t := by
  induction t with
  | nil => simp [Table.drop] at h
  | cons a t ih =>
    obtain ⟨k, v⟩ := a
    simp only [Table.drop] at h
    split at h
    · exact List.mem_cons_of_mem _ h
    · rcases List.mem_cons.mp h with h | h
      · simp [h]
      · exact List.mem_cons_of_mem _ (ih h)

/-- Writing a cell keeps the canonical form. -/
theorem put_wf (m : List Host.Cell) (key : Nat) (v : Byte) (h : Memory.wf m) : Memory.wf (Table.put m key v) := by
  induction m with
  | nil => simp [Memory.wf, Table.put]
  | cons a t ih =>
    obtain ⟨k, w⟩ := a
    simp only [Memory.wf, List.map_cons, List.pairwise_cons] at h ih ⊢
    simp only [Table.put]
    split
    · rename_i hk
      simp only [List.map_cons, List.pairwise_cons]
      exact ⟨fun x hx => by rcases List.mem_cons.mp hx with rfl | hx
                            · exact hk
                            · exact hk.trans (h.1 x hx), h⟩
    · split
      · rename_i hk
        subst hk
        simpa using h
      · rename_i h1 h2
        simp only [List.map_cons, List.pairwise_cons]
        refine ⟨fun x hx => ?_, ih h.2⟩
        obtain ⟨p, hp, rfl⟩ := List.mem_map.mp hx
        rcases Table.mem_put t key v p hp with rfl | hp
        · simp only at *
          omega
        · exact h.1 _ (List.mem_map_of_mem hp)

/-- Forgetting a cell keeps the canonical form. -/
theorem drop_wf (m : List Host.Cell) (key : Nat) (h : Memory.wf m) : Memory.wf (Table.drop m key) := by
  induction m with
  | nil => exact h
  | cons a t ih =>
    obtain ⟨k, w⟩ := a
    simp only [Memory.wf, List.map_cons, List.pairwise_cons] at h ih ⊢
    simp only [Table.drop]
    split
    · exact h.2
    · simp only [List.map_cons, List.pairwise_cons]
      refine ⟨fun x hx => ?_, ih h.2⟩
      obtain ⟨p, hp, rfl⟩ := List.mem_map.mp hx
      exact h.1 _ (List.mem_map_of_mem (Table.mem_drop t key p hp))

theorem storeAt_wf (key : Nat) (v : Byte) (d : Device) (h : Memory.wf d.mem) : Memory.wf (storeAt key v d).mem :=
  put_wf d.mem key v h

theorem forgetCell_wf (key : Nat) (d : Device) (h : Memory.wf d.mem) : Memory.wf (forgetCell key d).mem :=
  drop_wf d.mem key h

theorem floatDevice_wf (e : Env) (n : Nat) (d : Device) : Memory.wf (floatDevice e n d).mem := List.Pairwise.nil

theorem reset_wf : Memory.wf State.reset.dev.mem := List.Pairwise.nil

end Sys2Proof.Machine
end

