-- ==== Sys2Proof/Laws/Clock.lean ====
section
/-! SUPPORT. The machine's step and meanings as functions of the deployment, what a step can be, and the device's reaction by what the pins did. -/

namespace Sys2Proof.Machine

/-- The deployment's configuration is valid whatever the opaque variant is. -/
theorem config_valid : Config.env.cfg.Valid := by
  show (if Config.variant.cfg.Valid then Config.variant.cfg else Cfg.observed66).Valid
  split
  · assumption
  · decide

/-- The meaning of a command is its edge in the machine's deployment. -/
theorem exec_eq (i : Instr) (s : State) : exec i s = .next (commandEdge Config.env i s) := by
  cases i <;> rfl

/-- The machine's step is the step function of its deployment. -/
theorem step_eq (s : State) : step s = .next (stepIn Config.env s) := by
  unfold step stepBy stepIn
  cases portInput s <;> simp [exec_eq]

/-- While the port is not ready a command on it changes nothing (R104). -/
theorem commandEdge_busy (e : Env) (i : Instr) (s : State) (h : phaseReady s.seq.phase = false) :
    commandEdge e i s = quietEdge e s := by
  cases i <;> simp [commandEdge, initEdge, readEdge, writeEdge, h]

/-- An accepted command takes the sequencer where its acceptance says (R104). -/
theorem commandEdge_ready (e : Env) (i : Instr) (s : State) (h : phaseReady s.seq.phase = true) :
    commandEdge e i s = edgeTo e s
      (match i with
        | .init => acceptInit s.seq
        | .read row col => acceptRead e.cfg row col s.seq
        | .write row col value => acceptWrite e.cfg row col value s.seq) := by
  cases i <;> simp [commandEdge, initEdge, readEdge, writeEdge, h]

/-- With no move left the host idles. -/
theorem stepIn_silent (e : Env) (s : State) (h : s.host = []) : stepIn e s = quietEdge e s := by
  simp only [stepIn, portInput, h]

theorem stepIn_idle (e : Env) (s : State) (rest : List HostMove) (h : s.host = .idle :: rest) :
    stepIn e s = quietEdge e { s with host := rest } := by
  simp only [stepIn, portInput, h]

theorem stepIn_reset (e : Env) (s : State) (rest : List HostMove) (h : s.host = .reset :: rest) :
    stepIn e s = resetEdge { s with host := rest } := by
  simp only [stepIn, portInput, h]

/-- A presented command makes its edge, accepted or not, and the host's move is used up (R20 b). -/
theorem stepIn_command (e : Env) (s : State) (word : CmdWord) (rest : List HostMove) (i : Instr)
    (h : s.host = .present word :: rest) (hd : decode word = .command i) :
    stepIn e s = commandEdge e i { s with host := rest } := by
  simp only [stepIn, portInput, h, hd]

theorem stepIn_reserved (e : Env) (s : State) (word : CmdWord) (rest : List HostMove) (why : ReservedWord)
    (h : s.host = .present word :: rest) (hd : decode word = .reserved why) :
    stepIn e s = reservedEdge e { s with host := rest } := by
  simp only [stepIn, portInput, h, hd]

/-- What a step can be: a reset, or a clock edge to one of five register states, with the host's move used up. -/
theorem stepIn_cases (e : Env) (s : State) :
    stepIn e s = resetEdge { s with host := s.host.tail } ∨
    stepIn e s = quietEdge e { s with host := s.host.tail } ∨
    (phaseReady s.seq.phase = true ∧ ∃ q, stepIn e s = edgeTo e { s with host := s.host.tail } q ∧
      (q = raiseFault .reserved s.seq ∨ q = acceptInit s.seq ∨
        (∃ row col, q = acceptRead e.cfg row col s.seq) ∨
        ∃ row col value, q = acceptWrite e.cfg row col value s.seq)) := by
  match hs : s.host with
  | [] => exact .inr (.inl (by rw [stepIn_silent e s hs, List.tail_nil, ← hs]))
  | .idle :: rest => exact .inr (.inl (stepIn_idle e s rest hs))
  | .reset :: rest => exact .inl (stepIn_reset e s rest hs)
  | .present word :: rest =>
    cases hr : phaseReady s.seq.phase with
    | false =>
      refine .inr (.inl ?_)
      cases hd : decode word with
      | command i => simp [stepIn_command e s word rest i hs hd, commandEdge_busy, hr]
      | reserved why => simp [stepIn_reserved e s word rest why hs hd, reservedEdge, hr]
    | true =>
      refine .inr (.inr ⟨rfl, ?_⟩)
      cases hd : decode word with
      | reserved why =>
        exact ⟨_, by simp only [stepIn_reserved e s word rest why hs hd, reservedEdge, hr, if_true, List.tail_cons],
          .inl rfl⟩
      | command i =>
        rw [stepIn_command e s word rest i hs hd, commandEdge_ready e i { s with host := rest } hr, List.tail_cons]
        cases i with
        | init => exact ⟨_, rfl, .inr (.inl rfl)⟩
        | read r c => exact ⟨_, rfl, .inr (.inr (.inl ⟨r, c, rfl⟩))⟩
        | write r c v => exact ⟨_, rfl, .inr (.inr (.inr ⟨r, c, v, rfl⟩))⟩

/-- Every step uses up one move of the host and no other, whatever the phase (R20 b). -/
@[simp] theorem stepIn_host (e : Env) (s : State) : (stepIn e s).host = s.host.tail := by
  rcases stepIn_cases e s with h | h | ⟨-, q, h, -⟩ <;> rw [h] <;> rfl

theorem runIn_host (e : Env) (n : Nat) (s : State) : (runIn e n s).host = s.host.drop n := by
  induction n generalizing s with
  | zero => rfl
  | succ n ih => rw [runIn, ih, stepIn_host, List.drop_tail]

/-- Acceptance of any command, and of a reserved word, touches no pin register (R104, R210). -/
theorem acceptInit_pins (q : Seq) : pinsOf (acceptInit q) = pinsOf q ∧ (acceptInit q).ctrlOe = q.ctrlOe := by
  unfold acceptInit
  split <;> exact ⟨rfl, rfl⟩

theorem acceptRead_pins (c : Cfg) (row col : Byte) (q : Seq) :
    pinsOf (acceptRead c row col q) = pinsOf q ∧ (acceptRead c row col q).ctrlOe = q.ctrlOe := by
  unfold acceptRead
  split
  · exact ⟨rfl, rfl⟩
  · split <;> exact ⟨rfl, rfl⟩

theorem acceptWrite_pins (c : Cfg) (row col value : Byte) (q : Seq) :
    pinsOf (acceptWrite c row col value q) = pinsOf q ∧ (acceptWrite c row col value q).ctrlOe = q.ctrlOe := by
  unfold acceptWrite
  split
  · exact ⟨rfl, rfl⟩
  · split <;> exact ⟨rfl, rfl⟩

/-- With driven control lines and no change of the three strobes, the device only grows older. -/
theorem react_still (e : Env) (n : Nat) (b a : Seq) (d : Device) (hc : a.ctrlOe = true)
    (hr : a.rasN = b.rasN) (hk : a.casN = b.casN) (hw : a.weN = b.weN) : react e n b a d = ageDevice d := by
  cases h1 : b.rasN <;> cases h2 : b.casN <;> cases h3 : b.weN <;>
    simp [react, hc, latchRow, latchCol, storeCell, disturb, oddStrobe, hr, hk, hw, h1, h2, h3]

/-- While the control lines float the device holds draws (R76). -/
theorem react_float (e : Env) (n : Nat) (b a : Seq) (d : Device) (hc : a.ctrlOe = false) :
    react e n b a d = floatDevice e n d := by
  simp [react, hc]

@[simp] theorem latchRow_mem (e : Env) (n : Nat) (b a : Seq) (d : Device) : (latchRow e n b a d).mem = d.mem := by
  unfold latchRow
  split <;> [rfl; (split <;> rfl)]

@[simp] theorem latchRow_ages (e : Env) (n : Nat) (b a : Seq) (d : Device) : (latchRow e n b a d).ages = d.ages := by
  unfold latchRow
  split <;> [rfl; (split <;> rfl)]

@[simp] theorem latchRow_colL (e : Env) (n : Nat) (b a : Seq) (d : Device) : (latchRow e n b a d).colL = d.colL := by
  unfold latchRow
  split <;> [rfl; (split <;> rfl)]

@[simp] theorem latchCol_mem (e : Env) (n : Nat) (b a : Seq) (d : Device) : (latchCol e n b a d).mem = d.mem := by
  unfold latchCol
  split <;> split <;> rfl

@[simp] theorem latchCol_ages (e : Env) (n : Nat) (b a : Seq) (d : Device) : (latchCol e n b a d).ages = d.ages := by
  unfold latchCol
  split <;> split <;> rfl

@[simp] theorem latchCol_rowL (e : Env) (n : Nat) (b a : Seq) (d : Device) : (latchCol e n b a d).rowL = d.rowL := by
  unfold latchCol
  split <;> split <;> rfl

/-- A store changes the cells only, and only at the open cell: all it can do. -/
theorem storeCell_cases (e : Env) (n : Nat) (b a : Seq) (d : Device) :
    storeCell e n b a d = d ∨
      ∃ key, openCell d = some key ∧ storeCell e n b a d = storeAt key (storedValue e n a) d := by
  unfold storeCell
  split
  · split
    · exact .inr ⟨_, by assumption, rfl⟩
    · exact .inl rfl
  · exact .inl rfl

/-- All that an odd strobe sequence can do. -/
theorem disturb_cases (b a : Seq) (d : Device) :
    disturb b a d = d ∨ ∃ key, openCell d = some key ∧ disturb b a d = forgetCell key d := by
  unfold disturb
  split
  · split
    · exact .inr ⟨_, by assumption, rfl⟩
    · exact .inl rfl
  · exact .inl rfl

/-- The device's reaction keeps the canonical form of its memory, whatever the pins do. -/
theorem react_wf (e : Env) (n : Nat) (b a : Seq) (d : Device) (h : Memory.wf d.mem) :
    Memory.wf (react e n b a d).mem := by
  unfold react
  split
  · generalize hx : ageDevice (latchCol e n b a (latchRow e n b a d)) = x
    have hm : x.mem = d.mem := by simp [← hx]
    have hs : Memory.wf (storeCell e n b a x).mem := by
      rcases storeCell_cases e n b a x with hc | ⟨key, -, hc⟩ <;> rw [hc]
      · rwa [hm]
      · exact storeAt_wf _ _ _ (by rwa [hm])
    rcases disturb_cases b a (storeCell e n b a x) with hc | ⟨key, -, hc⟩ <;> rw [hc]
    · exact hs
    · exact forgetCell_wf _ _ hs
  · exact floatDevice_wf e n d

end Sys2Proof.Machine
end

