-- ==== Sys2Proof/Laws/Device.lean ====
section
/-! SUPPORT. The device's reaction as one equation per pin event: WE alone, RAS falling, CAS falling in a row cycle, both strobes rising. -/

namespace Sys2Proof.Machine

/-- WE rising, or high all along, with the strobes unchanged: the device only grows older. -/
theorem react_weHigh (e : Env) (n : Nat) (b a : Seq) (d : Device) (hc : a.ctrlOe = true)
    (hr : a.rasN = b.rasN) (hk : a.casN = b.casN) (hw : a.weN = true) : react e n b a d = ageDevice d := by
  cases h1 : b.rasN <;> cases h2 : b.casN <;>
    simp [react, hc, latchRow, latchCol, storeCell, disturb, oddStrobe, hr, hk, hw, h1, h2]

/-- WE changing while CAS is high and the strobes stay: the device only grows older. -/
theorem react_weOutsideCas (e : Env) (n : Nat) (b a : Seq) (d : Device) (hc : a.ctrlOe = true)
    (hr : a.rasN = b.rasN) (hk : a.casN = b.casN) (h : b.casN = true) : react e n b a d = ageDevice d := by
  cases h1 : b.rasN <;> simp [react, hc, latchRow, latchCol, storeCell, disturb, oddStrobe, hr, hk, h, h1]

/-- RAS falls while CAS is high: the row is latched, nothing else happens (R77). -/
theorem react_rasFall (e : Env) (n : Nat) (b a : Seq) (d : Device) (hc : a.ctrlOe = true) (hb : b.rasN = true)
    (ha : a.rasN = false) (h1 : b.casN = true) (h2 : a.casN = true) : react e n b a d =
      ageDevice { d with rowL := some (if a.addrOe then rowOfLines e.cfg a.addrOut
                                       else maskBits e.cfg.rowBits (e.draw n .rowPins)) } := by
  simp [react, hc, latchRow, latchCol, storeCell, disturb, oddStrobe, hb, ha, h1, h2]

/-- CAS falls in a row cycle with WE high: the column is latched, nothing is stored (R78). -/
theorem react_casFallRead (e : Env) (n : Nat) (b a : Seq) (d : Device) (hc : a.ctrlOe = true) (hb : b.casN = true)
    (ha : a.casN = false) (h1 : b.rasN = false) (h2 : a.rasN = false) (hw : a.weN = true) : react e n b a d =
      ageDevice { d with colL := some (if a.addrOe then colOfLines e.cfg a.addrOut
                                       else maskBits e.cfg.colBits (e.draw n .colPins)) } := by
  simp [react, hc, latchRow, latchCol, storeCell, disturb, oddStrobe, hb, ha, h1, h2, hw]

/-- CAS falls in a row cycle with WE low all along: the column is latched and the open cell stored (R78, R79). -/
theorem react_casFallWrite (e : Env) (n : Nat) (b a : Seq) (d : Device) (r : Byte) (hc : a.ctrlOe = true)
    (hb : b.casN = true) (ha : a.casN = false) (h1 : b.rasN = false) (h2 : a.rasN = false) (hw : a.weN = false)
    (hr : d.rowL = some r) (ho : a.addrOe = true) : react e n b a d =
      storeAt (cellKey r (colOfLines e.cfg a.addrOut)) (storedValue e n a)
        (ageDevice { d with colL := some (colOfLines e.cfg a.addrOut) }) := by
  simp [react, hc, latchRow, latchCol, storeCell, disturb, oddStrobe, openCell, hb, ha, h1, h2, hw, hr, ho, ageDevice]

/-- Both strobes rise: both latches are emptied, nothing else happens (R77, R78, R168). -/
theorem react_release (e : Env) (n : Nat) (b a : Seq) (d : Device) (hc : a.ctrlOe = true) (h1 : b.rasN = false)
    (h2 : b.casN = false) (h3 : a.rasN = true) (h4 : a.casN = true) : react e n b a d =
      ageDevice { d with rowL := none, colL := none } := by
  simp [react, hc, latchRow, latchCol, storeCell, disturb, oddStrobe, openCell, h1, h2, h3, h4, ageDevice]

end Sys2Proof.Machine
end

