-- ==== Sys2Proof/Laws/Operands.lean ====
section
/-! SUPPORT. The masks and the two wirings, bit by bit: what `maskBits`, `linesFrom` and `addrFrom` give, once and for all wirings. -/

namespace Sys2Proof.Machine

/-- `mask_N` as a number (R12). -/
theorem toNat_maskBits (n : Nat) (v : Byte) : (maskBits n v).toNat = v.toNat % 2 ^ n := by
  simp only [maskBits, BitVec.toNat_ofNat]
  exact Nat.mod_eq_of_lt (lt_of_le_of_lt (Nat.mod_le _ _) v.isLt)

/-- A mask leaves a value that fits alone. -/
theorem maskBits_of_lt (n : Nat) (v : Byte) (h : v.toNat < 2 ^ n) : maskBits n v = v := by
  apply BitVec.eq_of_toNat_eq
  rw [toNat_maskBits, Nat.mod_eq_of_lt h]

/-- A masked value fits. -/
theorem maskBits_lt (n : Nat) (v : Byte) : (maskBits n v).toNat < 2 ^ n := by
  rw [toNat_maskBits]
  exact Nat.mod_lt _ (by positivity)

/-- A port bit of a pattern is set exactly when some set logical bit is wired to it. -/
theorem getLsbD_linesFrom (m : List (Fin 8)) (i : Nat) (a : Byte) (j : Nat) :
    (linesFrom m i a).getLsbD j = true ↔ ∃ n, ∃ h : n < m.length, (m[n]).val = j ∧ a.getLsbD (i + n) = true := by
  induction m generalizing i with
  | nil => simp [linesFrom]
  | cons p m ih =>
    simp only [linesFrom, BitVec.getLsbD_or, Bool.or_eq_true, ih]
    constructor
    · rintro (h | ⟨n, h, h1, h2⟩)
      · split at h
        · rename_i ha
          simp only [BitVec.getLsbD_twoPow, Bool.and_eq_true, decide_eq_true_eq] at h
          exact ⟨0, by simp, h.2, ha⟩
        · simp at h
      · exact ⟨n + 1, by simpa using h, by simpa using h1, by rw [← h2]; congr 1; omega⟩
    · rintro ⟨n, h, h1, h2⟩
      cases n with
      | zero =>
        simp only [List.getElem_cons_zero] at h1
        have h3 : a.getLsbD i = true := h2
        have := p.isLt
        exact .inl (by simp [h3, BitVec.getLsbD_twoPow, h1]; omega)
      | succ n => exact .inr ⟨n, by simpa using h, by simpa using h1, by rw [← h2]; congr 1; omega⟩

/-- A logical bit read back from a pattern is the port bit it is wired to. -/
theorem getLsbD_addrFrom (m : List (Fin 8)) (i : Nat) (p : Byte) (j : Nat) (hm : i + m.length ≤ 8) :
    (addrFrom m i p).getLsbD j = true ↔ ∃ n, ∃ h : n < m.length, i + n = j ∧ p.getLsbD (m[n]).val = true := by
  induction m generalizing i with
  | nil => simp [addrFrom]
  | cons q m ih =>
    simp only [List.length_cons] at hm
    simp only [addrFrom, BitVec.getLsbD_or, Bool.or_eq_true, ih (i + 1) (by omega)]
    constructor
    · rintro (h | ⟨n, h, h1, h2⟩)
      · split at h
        · rename_i ha
          simp only [BitVec.getLsbD_twoPow, Bool.and_eq_true, decide_eq_true_eq] at h
          exact ⟨0, by simp, h.2, ha⟩
        · simp at h
      · exact ⟨n + 1, by simpa using h, by omega, by simpa using h2⟩
    · rintro ⟨n, h, h1, h2⟩
      cases n with
      | zero =>
        have h3 : p.getLsbD q.val = true := h2
        have h4 : i = j := h1
        exact .inl (by simp [h3, BitVec.getLsbD_twoPow, h4]; omega)
      | succ n => exact .inr ⟨n, by simpa using h, by omega, by simpa using h2⟩

/-- The identity wiring of up to eight bits leaves every port bit at the address bit of its number (R8, R74). -/
theorem linesFrom_identity (n : Nat) (a : Byte) (hn : n ≤ 8) (ha : a.toNat < 2 ^ n) :
    linesFrom (identityMap n) 0 a = a := by
  have hlen : (identityMap n).length = n := by simp [identityMap]; omega
  have hget : ∀ k (h : k < (identityMap n).length), ((identityMap n)[k]).val = k := by
    intro k h
    rw [hlen] at h
    interval_cases n <;> interval_cases k <;> rfl
  apply BitVec.eq_of_getLsbD_eq
  intro j hj
  rw [Bool.eq_iff_iff, getLsbD_linesFrom]
  constructor
  · rintro ⟨k, h, hk, hb⟩
    rw [hget] at hk
    rwa [Nat.zero_add, hk] at hb
  · intro hb
    have hjn : j < n := by
      by_contra hc
      have := Nat.pow_le_pow_right (show 0 < 2 by decide) (show n ≤ j by omega)
      exact absurd (Nat.testBit_lt_two_pow (lt_of_lt_of_le ha this)) (by simpa [BitVec.getLsbD] using hb)
    exact ⟨j, by omega, hget j _, by rwa [Nat.zero_add]⟩

end Sys2Proof.Machine
end

