-- ==== Sys2Proof/Laws/PerInstr.lean ====
section
/-! SUPPORT. Statements about every command as syntax, one lemma per constructor. -/

namespace Sys2Proof.Laws.EncodingRow

/-- A command's word lies in the row of the opcode table the command stands for: under the row's mask it is the row's match
value (R102). -/
def Statement : Instr → Prop
  | .init => encode .init &&& 0xFFFFFFFF#32 = 0x00000000#32
  | .read row col => encode (.read row col) &&& 0xFF0000FF#32 = 0x40000000#32
  | .write row col value => encode (.write row col value) &&& 0xFF000000#32 = 0x80000000#32

theorem init : Statement .init := by
  show encode .init &&& 0xFFFFFFFF#32 = 0x00000000#32
  decide

theorem read (row col : Byte) : Statement (.read row col) := by
  show encode (.read row col) &&& 0xFF0000FF#32 = 0x40000000#32
  apply BitVec.eq_of_getLsbD_eq
  intro j hj
  interval_cases j <;> simp [encode, atField]

theorem write (row col value : Byte) : Statement (.write row col value) := by
  show encode (.write row col value) &&& 0xFF000000#32 = 0x80000000#32
  apply BitVec.eq_of_getLsbD_eq
  intro j hj
  interval_cases j <;> simp [encode, atField]

end Sys2Proof.Laws.EncodingRow
end

