-- ==== Sys2Proof/Tests/Slice0.lean ====
section
/-! SUPPORT. Tests of the model against values of the spec (95_test_vectors.md and the rules), and the witnesses that meet the hypotheses of the obligations. -/

namespace Sys2Proof.Tests
open Sys2Proof.Machine

/-! ### Well-formed operands: one ill-formed term per check (R105, V13) -/

/-- The nibble deployment of the vectors: 4 by 4 cells of 4 bits, one settle cycle, the default wiring and release order. -/
def cfg22n : Cfg where
  rowBits := 2
  colBits := 2
  width := .nibble
  settleCycles := 1

theorem test_read_row_64_ill_formed : ¬ (Instr.read 0x40#8 0#8).WellFormed Cfg.observed66 := by decide
theorem test_read_col_64_ill_formed : ¬ (Instr.read 0#8 0x40#8).WellFormed Cfg.observed66 := by decide
theorem test_write_row_4_ill_formed : ¬ (Instr.write 4#8 0#8 0#8).WellFormed cfg22n := by decide
theorem test_write_col_4_ill_formed : ¬ (Instr.write 0#8 4#8 0#8).WellFormed cfg22n := by decide
theorem test_write_value_16_ill_formed : ¬ (Instr.write 0#8 0#8 0x10#8).WellFormed cfg22n := by decide
theorem test_last_cell_well_formed : (Instr.write 3#8 3#8 0xF#8).WellFormed cfg22n := by decide

theorem test_observed_valid : Cfg.observed66.Valid := by decide
theorem test_nibble_valid : cfg22n.Valid := by decide
theorem test_observed44_valid : Cfg.observed44.Valid := by decide

/-! ### Decoding words written out from R100 (op 31:30, zero 29:24, row 23:16, col 15:8, value 7:0) -/

theorem test_decode_init : decode 0b00_000000_00000000_00000000_00000000#32 = .command .init := by decide
theorem test_decode_read :
    decode 0b01_000000_00100101_00011011_00000000#32 = .command (.read 0x25#8 0x1B#8) := by decide
theorem test_decode_write :
    decode 0b10_000000_00100101_00011011_10100111#32 = .command (.write 0x25#8 0x1B#8 0xA7#8) := by decide

/-- V12: one reserved word per reason, two at the edge of a field. -/
theorem test_decode_reserved :
    decode 0b11_000000_00000000_00000000_00000000#32 = .reserved .reservedOp ∧
    decode 0b10_000001_00000000_00000000_00000000#32 = .reserved .zeroField ∧
    decode 0b00_111111_00000000_00000000_00000000#32 = .reserved .zeroField ∧
    decode 0b00_000000_00000001_00000000_00000000#32 = .reserved .unusedField ∧
    decode 0b01_000000_00000000_00000000_00000001#32 = .reserved .unusedField := by decide

theorem test_table_word : decodeTableWord 32 0x40251B00 = some (.read 0x25#8 0x1B#8) := by decide
theorem test_table_word_reserved : decodeTableWord 32 0xC0000000 = none := by decide

/-! ### Line patterns (V20, V22) -/

theorem test_pattern : addrToLines Cfg.observed66 0x25#8 = 0x91#8 ∧ addrToLines Cfg.observed66 0x1B#8 = 0x63#8 := by
  decide
theorem test_pattern_back : linesToAddr Cfg.observed66 0x91#8 = 0x25#8 ∧ linesToAddr Cfg.observed66 0x9D#8 = 0x25#8 := by
  decide

/-- V24: the default wiring is the identity, and so is that of a variant for which no map is given; a map that is given is used. -/
theorem test_identity_wiring : (addrToLines cfg22n 0#8 = 0x00#8 ∧ addrToLines cfg22n 1#8 = 0x01#8 ∧
    addrToLines cfg22n 2#8 = 0x02#8 ∧ addrToLines cfg22n 3#8 = 0x03#8) ∧
    Variant.cfg ⟨4, 4, .nibble, none, 2, .strobesFirst, .releaseThenWe⟩ = Cfg.observed44 ∧
    Variant.cfg ⟨6, 6, .byte, some [0, 1, 4, 5, 6, 7], 2, .strobesFirst, .releaseThenWe⟩ = Cfg.observed66 := by decide

/-! ### Deployments and states for tests and witnesses -/

/-- A deployment with a given configuration; a fixed number stands for the draws. -/
def env (c : Cfg) (minSettle retention : Nat) (stuck : List (Nat × Byte)) : Env where
  cfg := c
  minSettle := minSettle
  retention := retention
  stuck := stuck
  waitUnit := 1
  maxDiffs := 4
  draw := fun _ _ => 0xEE#8
  drawLatch := fun _ _ => none

/-- The observed deployment, whose settle delay suffices. -/
def env66 : Env := env Cfg.observed66 2 400000 []

/-- The registers a phase starts from, with every index and value 0. -/
def seqIn (c : Cfg) (p : Phase) : Seq where
  phase := p
  row := 0#8
  col := 0#8
  wdata := 0#8
  rdata := 0#8
  cnt := if p = .rSettle then 1#8 else 0#8
  inited := (phaseEnables p).2.2
  rspValid := false
  faultCode := if p = .fault then 1#3 else 0#3
  rasN := (phasePins c p).ras
  casN := (phasePins c p).cas
  weN := (phasePins c p).we
  ctrlOe := (phaseEnables p).1
  addrOut := 0#8
  addrOe := (phaseEnables p).2.1
  dqOut := 0#8
  dqOe := (phasePins c p).dq

/-- A state at the start of a phase, the latches as the strobes have left them, nothing stored, the host's moves given. -/
def stateIn (c : Cfg) (p : Phase) (moves : List HostMove) : State where
  seq := seqIn c p
  dev := {
    mem := []
    ages := []
    rowL := if (phasePins c p).ras then none else some 0#8
    colL := if (phasePins c p).cas then none else some 0#8 }
  contention := false
  host := moves
  edge := 0

/-! ### One step of each command -/

/-- V35: INIT from reset is accepted. -/
theorem test_init_accepted :
    (stepIn env66 { State.reset with host := [.present 0x00000000#32] }).seq.phase = .iCtrl := by decide

/-- R134: the last step of INIT sets `INITED` and returns to `IDLE`. -/
theorem test_init_last_step :
    (stepIn env66 (stateIn Cfg.observed66 .iData [])).seq.inited = true ∧
      (stepIn env66 (stateIn Cfg.observed66 .iData [])).seq.phase = .idle := by decide

/-- V40, R157: the step of `W_COL` presents the column pattern. -/
theorem test_write_col_pattern :
    (stepIn env66 { (stateIn Cfg.observed66 .wCol []) with
      seq := { seqIn Cfg.observed66 .wCol with col := 0x1B#8 } }).seq.addrOut = 0x63#8 := by decide

/-- V40: the step of `W_CAS` stores the value in the cell of the latched row and the presented column. -/
theorem test_write_stores :
    Memory.stored (stepIn env66 { (stateIn Cfg.observed66 .wCas []) with
      seq := { seqIn Cfg.observed66 .wCas with row := 0x25#8, col := 0x1B#8, addrOut := 0x63#8, dqOut := 0xA7#8 }
      dev := { mem := [], ages := [], rowL := some 0x25#8, colL := none } }).dev.mem (cellKey 0x25#8 0x1B#8)
        = some 0xA7#8 := by decide

/-- V50: the step of `R_SAMPLE` takes the value of the open cell. -/
theorem test_read_sample :
    (stepIn env66 { (stateIn Cfg.observed66 .rSample []) with
      dev := { mem := [(0x251B, 0xA7#8)], ages := [(0x251B, 10)], rowL := some 0x25#8, colL := some 0x1B#8 } }).seq.rdata
        = 0xA7#8 := by decide

/-- V51: with `settleCycles = 0` the step of `R_CAS` goes on to `R_SAMPLE`. -/
theorem test_read_no_settle :
    (stepIn (env { Cfg.observed66 with settleCycles := 0 } 0 9 []) (stateIn Cfg.observed66 .rCas [])).seq.phase
      = .rSample := by decide

/-! ### Faults (V60, V61), reset (V81), contention (V44) -/

theorem test_not_init_before_operand :
    (stepIn env66 { State.reset with host := [.present 0x80C80000#32] }).seq.faultCode = 2#3 := by decide
theorem test_reinit :
    (stepIn env66 (stateIn Cfg.observed66 .idle [.present 0x00000000#32])).seq.faultCode = 3#3 := by decide
theorem test_operand :
    (stepIn env66 (stateIn Cfg.observed66 .idle [.present 0x80C80000#32])).seq.faultCode = 4#3 := by decide
theorem test_reserved_before_reinit :
    (stepIn env66 (stateIn Cfg.observed66 .idle [.present 0x00000001#32])).seq.faultCode = 1#3 := by decide
theorem test_reset_after_store :
    (stepIn env66 { (stateIn Cfg.observed66 .wX1 [.reset]) with
      dev := { mem := [(0, 1#8)], ages := [(0, 0)], rowL := some 0#8, colL := some 0#8 } }).dev = Device.reset := by decide

/-- The observed grid with the release order EZS. -/
def cfgEZS : Cfg := { Cfg.observed66 with writeRelease := .dataFirst, weRelease := .weThenRelease }

theorem test_contention_ezs :
    (stepIn (env cfgEZS 2 400000 []) (stateIn cfgEZS .wX1 [])).contention = true := by decide
theorem test_no_contention_sze : (stepIn env66 (stateIn Cfg.observed66 .wX1 [])).contention = false := by decide

/-! ### The host: waiting words, duties, reset at any step, the end of a run (V65, P5, R230, R245, R251, R252) -/

/-- V65: a READ held from `W_X2` on is not accepted in `W_X2` and `W_X3` and is accepted in `IDLE`. -/
theorem test_word_waits :
    let s := stateIn Cfg.observed66 .wX2 (List.replicate 3 (.present 0x40251B00#32))
    (runIn env66 2 s).seq.phase = .idle ∧ (runIn env66 3 s).seq.phase = .rRow ∧ (runIn env66 3 s).seq.row = 0x25#8 ∧
      HostDuties env66 3 s := by decide

/-- A word the host takes away again is stored nowhere, and the host has broken its duty. -/
theorem test_withdrawn_word :
    let s := stateIn Cfg.observed66 .wX3 [.present 0x40251B00#32, .idle]
    (runIn env66 2 s).seq.phase = .idle ∧ ¬ HostDuties env66 1 s := by decide

/-- Reset at any time, with a word waiting in a command and after a fault. -/
theorem test_reset_while_word_waits : ∀ p ∈ [Phase.wX2, .fault],
    let s := stateIn Cfg.observed66 p [.present 0x00000000#32, .reset]
    (runIn env66 2 s).seq = Seq.reset ∧ HostDuties env66 2 s := by decide

theorem test_init_run_ends_well : EndedWell env66 4 { State.reset with host := [.present 0x00000000#32] } := by decide

/-- P5: the INIT held in FAULT is never accepted. -/
theorem test_word_in_fault_never_accepted :
    let s := { State.reset with host := [.present 0x80000000#32, .present 0x00000000#32] }
    (runIn env66 2 s).seq.faultCode = 2#3 ∧ ¬ RunOver env66 2 s ∧ RunOver env66 1
      { State.reset with host := [.present 0x80000000#32] } := by decide

/-- A reset after the end of a run is no reset during it. -/
theorem test_reset_after_run :
    let s := stateIn Cfg.observed66 .idle [.idle, .reset]
    NoResetDuring 1 s ∧ ¬ NoResetDuring 2 s := by decide

theorem test_reset_to_come : ¬ RunOver env66 0 (stateIn Cfg.observed66 .idle [.reset]) := by decide

/-! ### Placing a command -/

theorem test_placed_init : (stepIn env66 (State.reset.withFetchWord 32 0)).seq.phase = .iCtrl := by decide
theorem test_placed_write_runs_in_idle :
    (stepIn env66 ((stateIn Cfg.observed66 .rRel []).withFetchWord 32 0x80251BA7)).seq.phase = .wRow := by decide

/-! ### The host macros (V70, V71, V72, V73) -/

theorem test_popcount : popcount (0xF#8 ^^^ 0x0#8) = 4 ∧ popcount (0x00#8 ^^^ 0xFF#8) = 8 ∧
    popcount (0xA5#8 ^^^ 0xA7#8) = 1 := by decide

theorem test_grid_order : (gridCells cfg22n).take 5 = [(0#8, 0#8), (0#8, 1#8), (0#8, 2#8), (0#8, 3#8), (1#8, 0#8)] ∧
    (gridCells cfg22n).length = 16 := by decide

/-- V72 with `MAX_DIFFS = 4`: sixteen cells read `0xF` against `0x0`. -/
theorem test_total_decay_report :
    let rep := reportOf 4 0#8 ((gridCells cfg22n).map fun rc => { row := rc.1, col := rc.2, actual := 0xF#8 })
    rep.byteDiffCount = 16 ∧ rep.bitDiffCount = 64 ∧ rep.diffs =
      [⟨0#8, 0#8, 0xF#8⟩, ⟨0#8, 1#8, 0xF#8⟩, ⟨0#8, 2#8, 0xF#8⟩, ⟨0#8, 3#8, 0xF#8⟩] := by decide

/-- V73: one stuck cell, in descending order. -/
theorem test_one_stuck_cell_report :
    let rep := reportOf 1 0xFF#8 ((gridCells cfg22n).reverse.map fun rc =>
      { row := rc.1, col := rc.2, actual := if rc = (2#8, 1#8) then 0x00#8 else 0xFF#8 })
    rep.byteDiffCount = 1 ∧ rep.bitDiffCount = 8 ∧ rep.diffs = [⟨2#8, 1#8, 0xFF#8⟩] := by decide

/-! ### Witnesses

For each obligation with hypotheses, a state and operands that meet them together, clause by clause where it has several. -/

theorem linesFrom_zero (m : List (Fin 8)) (i : Nat) : linesFrom m i 0#8 = 0#8 := by
  induction m generalizing i with
  | nil => rfl
  | cons p m ih => simp [linesFrom, ih]

/-- The states of `stateIn` meet the invariant, in every configuration and every phase it can be in. -/
theorem stateIn_inv (e : Env) (p : Phase) (moves : List HostMove)
    (hp : p = .rSettle → 1 ≤ e.cfg.settleCycles) : Inv e (stateIn e.cfg p moves) := by
  have hr : 0 < e.cfg.rows := Nat.pos_of_ne_zero (by simp [Cfg.rows])
  have hc : 0 < e.cfg.cols := Nat.pos_of_ne_zero (by simp [Cfg.cols])
  have hz : addrToLines e.cfg 0#8 = 0#8 := linesFrom_zero _ _
  refine ⟨?_, ?_, by simp [stateIn]⟩
  · cases p <;> constructor <;>
      simp_all [stateIn, seqIn, pinsOf, phasePins, enablesOf, phaseEnables, idlePins, dataLoaded]
  · cases p <;> rcases hwr : e.cfg.writeRelease <;> rcases hwe : e.cfg.weRelease <;> constructor <;>
      simp [stateIn, seqIn, phasePins, phaseEnables, idlePins, Memory.wf, hwr, hwe]

theorem stateIn_run (e : Env) (p : Phase) (moves : List HostMove)
    (hp : p = .rSettle → 1 ≤ e.cfg.settleCycles) : InRun e (stateIn e.cfg p moves) :=
  .inr (stateIn_inv e p moves hp)

/-- The first cell and the value 0 are legal in every configuration. -/
theorem zero_fits (c : Cfg) : (Instr.write 0#8 0#8 0#8).WellFormed c ∧ (Instr.read 0#8 0#8).WellFormed c := by
  simp [Instr.WellFormed, Cfg.rows, Cfg.cols]

/-- The state four edges after reset with INIT presented at the first. -/
def idleAfterInit (e : Env) : State := runIn e 4 { State.reset with host := [.present 0x00000000#32] }

theorem idleAfterInit_reached (e : Env) : Reached e (idleAfterInit e) := ⟨_, 4, ⟨rfl, rfl, rfl, rfl⟩, rfl⟩
theorem idleAfterInit_idle (e : Env) : (idleAfterInit e).seq.phase = .idle := rfl

/-- A step answers some next state. -/
theorem stepped (s : State) : ∃ t, step s = .next t := ⟨_, step_eq s⟩
theorem executed (i : Instr) (s : State) : ∃ t, exec i s = .next t := ⟨_, exec_eq i s⟩

theorem witness_ResetRegisterValues : ∃ (s : State) (rest : List HostMove), s.host = .reset :: rest ∧ s.seq ≠ Seq.reset :=
  ⟨stateIn Cfg.observed66 .fault [.reset], [], by decide⟩

theorem witness_ResetFromAnyState : ∃ (s : State) (rest : List HostMove), s.host = .reset :: rest :=
  ⟨stateIn Cfg.observed66 .wX1 [.reset, .idle], [.idle], rfl⟩

theorem witness_StepRunsPresentedCommand : ∃ (s : State) (word : CmdWord) (rest : List HostMove) (i : Instr),
    s.host = .present word :: rest ∧ decode word = .command i :=
  ⟨stateIn Cfg.observed66 .idle [.present 0x80251BA7#32], 0x80251BA7#32, [], .write 0x25#8 0x1B#8 0xA7#8, rfl, by decide⟩

theorem witness_NothingFaultsAfterAcceptance : ∃ s : State,
    phaseBusy s.seq.phase = true ∧ s.host.head? ≠ some .reset :=
  ⟨stateIn Cfg.observed66 .wX3 [.present 0xC0000000#32], by decide⟩

theorem witness_NothingFaultsAfterAcceptance_recorded : ∃ s t : State, step s = .next t ∧
    s.host.head? ≠ some .reset ∧ t.seq.faultCode ≠ s.seq.faultCode :=
  ⟨stateIn Cfg.observed66 .idle [.present 0#32], _, step_eq _, by decide, by show 3#3 ≠ 0#3; decide⟩

/-- Each outcome of the acceptance, each phase it is taken in, a quiet ready state, and a word presented too early. -/
theorem witness_AcceptanceStep :
    (∀ word ∈ [0xC0000000#32, 0x00000000#32, 0x403F3F00#32, 0x40400000#32, 0x803F3FFF#32, 0x80400000#32],
      ∀ p ∈ [Phase.uninit, .idle], ∃ (s : State) (rest : List HostMove),
        s.host = .present word :: rest ∧ s.seq.phase = p ∧ phaseReady s.seq.phase = true) ∧
    (∃ s : State, phaseReady s.seq.phase = true ∧ s.host.head? = none) ∧
    (∃ s : State, phaseReady s.seq.phase = true ∧ s.host.head? = some .idle) ∧
    ∃ (s : State) (word : CmdWord) (rest : List HostMove),
      s.host = .present word :: rest ∧ phaseReady s.seq.phase = false := by
  refine ⟨fun word _ p hp => ⟨stateIn Cfg.observed66 p [.present word], [], rfl, rfl, ?_⟩, ⟨State.reset, by decide⟩,
    ⟨stateIn Cfg.observed66 .idle [.idle], by decide⟩,
    ⟨stateIn Cfg.observed66 .wX2 [.present 0x40251B00#32], 0x40251B00#32, [], by decide⟩⟩
  simp only [List.mem_cons, List.not_mem_nil, or_false] at hp
  rcases hp with rfl | rfl <;> rfl

theorem witness_PortIgnoredWhileBusy : ∃ s u s' u' : State, { s with host := u.host } = u ∧ s.host ≠ u.host ∧
    phaseBusy s.seq.phase = true ∧ s.host.head? ≠ some .reset ∧ u.host.head? ≠ some .reset ∧
    step s = .next s' ∧ step u = .next u' :=
  ⟨stateIn Cfg.observed66 .rSample [], stateIn Cfg.observed66 .rSample [.present 0#32], _, _, rfl, by decide, by decide,
    by decide, by decide, step_eq _, step_eq _⟩

theorem witness_QuietReadyStateStays : ∃ s u : State, phaseReady s.seq.phase = true ∧ s.host.head? = none ∧
    phaseReady u.seq.phase = true ∧ u.host.head? = some .idle :=
  ⟨State.reset, stateIn Cfg.observed66 .idle [.idle], by decide⟩

theorem witness_DecodeAndEncodeAgree :
    0x00000000#32 &&& 0xFFFFFFFF#32 = 0x00000000#32 ∧ 0x40FFFF00#32 &&& 0xFF0000FF#32 = 0x40000000#32 ∧
    0x80FFFFFF#32 &&& 0xFF000000#32 = 0x80000000#32 ∧
    (0xC0000000#32 &&& 0xFFFFFFFF#32 ≠ 0x00000000#32 ∧ 0xC0000000#32 &&& 0xFF0000FF#32 ≠ 0x40000000#32 ∧
      0xC0000000#32 &&& 0xFF000000#32 ≠ 0x80000000#32) ∧
    decode 0x80FFFFFF#32 = .command (.write 0xFF#8 0xFF#8 0xFF#8) := by decide

theorem witness_ReservedWordsExactly : ∃ (s : State) (word : CmdWord) (rest : List HostMove) (why : ReservedWord),
    s.host = .present word :: rest ∧ decode word = .reserved why ∧ phaseReady s.seq.phase = true :=
  ⟨stateIn Cfg.observed66 .idle [.present 0x40000001#32], 0x40000001#32, [], .unusedField, rfl, by decide, rfl⟩

/-- The last index of the observed grid; port bit 2 is not wired. -/
theorem witness_PatternBitsFollowLineMap : Cfg.observed66.Valid ∧ (0x3F#8).toNat < 2 ^ Cfg.observed66.addrBits ∧
    (5 < Cfg.observed66.lineMap.length) ∧ ∀ port ∈ Cfg.observed66.lineMap, port.val ≠ 2 := by decide

theorem witness_PatternsReversible : Cfg.observed66.Valid ∧ (0x3F#8).toNat < 2 ^ Cfg.observed66.addrBits ∧
    (0x00#8).toNat < 2 ^ Cfg.observed66.addrBits ∧ (0x3F#8).toNat < Cfg.observed66.rows ∧
    (0x3F#8).toNat < Cfg.observed66.cols ∧
    addrToLines Cfg.observed66 0x3F#8 = addrToLines Cfg.observed66 0x3F#8 := by decide

theorem witness_ObservedWiring : (63#8).toNat < 64 := by decide

/-- A reserved word in both ready phases, a command too early, INIT twice, an operand one above the range (V13). -/
theorem witness_AcceptanceFaults :
    (∃ (s : State) (word : CmdWord) (rest : List HostMove) (why : ReservedWord),
      s.host = .present word :: rest ∧ decode word = .reserved why ∧ s.seq.phase = .uninit) ∧
    (∃ (s : State) (word : CmdWord) (rest : List HostMove) (why : ReservedWord),
      s.host = .present word :: rest ∧ decode word = .reserved why ∧ s.seq.phase = .idle) ∧
    (∃ (s : State) (i : Instr), s.seq.phase = .uninit ∧ i ≠ .init) ∧
    (∃ s : State, s.seq.phase = .idle) ∧
    ∃ (e : Env) (s : State) (i : Instr), s.seq.phase = .idle ∧ ¬ i.WellFormed e.cfg :=
  ⟨⟨stateIn Cfg.observed66 .uninit [.present 0xFFFFFFFF#32], 0xFFFFFFFF#32, [], .reservedOp, rfl, by decide, rfl⟩,
    ⟨stateIn Cfg.observed66 .idle [.present 0xFFFFFFFF#32], 0xFFFFFFFF#32, [], .reservedOp, rfl, by decide, rfl⟩,
    ⟨State.reset, .read 0#8 0#8, by decide⟩, ⟨stateIn Cfg.observed66 .idle [], rfl⟩,
    ⟨env66, stateIn Cfg.observed66 .idle [], .read 0x40#8 0#8, rfl, by decide⟩⟩

theorem witness_FaultPriority :
    (∃ (s : State) (word : CmdWord) (rest : List HostMove) (why : ReservedWord), s.host = .present word :: rest ∧
      phaseReady s.seq.phase = true ∧ decode word = .reserved why) ∧
    (∃ (s : State) (word : CmdWord) (rest : List HostMove) (i : Instr), s.host = .present word :: rest ∧
      phaseReady s.seq.phase = true ∧ decode word = .command i ∧ s.seq.phase = .uninit ∧ i ≠ .init) ∧
    (∃ (s : State) (word : CmdWord) (rest : List HostMove) (i : Instr), s.host = .present word :: rest ∧
      phaseReady s.seq.phase = true ∧ decode word = .command i ∧ s.seq.phase = .idle ∧ i = .init) ∧
    (∃ (s : State) (word : CmdWord) (rest : List HostMove) (i : Instr), s.host = .present word :: rest ∧
      phaseReady s.seq.phase = true ∧ decode word = .command i ∧ s.seq.phase = .idle ∧ i ≠ .init ∧
      ¬ i.WellFormed env66.cfg) ∧
    (∃ (s : State) (word : CmdWord) (rest : List HostMove) (i : Instr), s.host = .present word :: rest ∧
      phaseReady s.seq.phase = true ∧ decode word = .command i ∧ s.seq.phase = .uninit ∧ i = .init) ∧
    (∃ (s : State) (word : CmdWord) (rest : List HostMove) (i : Instr), s.host = .present word :: rest ∧
      phaseReady s.seq.phase = true ∧ decode word = .command i ∧ s.seq.phase = .idle ∧ i ≠ .init ∧
      i.WellFormed env66.cfg) :=
  ⟨⟨stateIn Cfg.observed66 .uninit [.present 1#32], 1#32, [], .unusedField, rfl, rfl, by decide⟩,
    ⟨stateIn Cfg.observed66 .uninit [.present 0x80C80000#32], _, [], .write 200#8 0#8 0#8, rfl, rfl, by decide, rfl, by decide⟩,
    ⟨stateIn Cfg.observed66 .idle [.present 0#32], _, [], .init, rfl, rfl, by decide, rfl, rfl⟩,
    ⟨stateIn Cfg.observed66 .idle [.present 0x80004000#32], _, [], .write 0#8 0x40#8 0#8, rfl, rfl, by decide, rfl,
      by decide, by decide⟩,
    ⟨State.reset.withFetchWord 32 0, _, [], .init, rfl, rfl, by decide, rfl, rfl⟩,
    ⟨stateIn Cfg.observed66 .idle [.present 0x403F3F00#32], _, [], .read 0x3F#8 0x3F#8, rfl, rfl, by decide, rfl,
      by decide, by decide⟩⟩

theorem witness_FaultEntryPrecise : ∃ s t : State, InRun Config.env s ∧ phaseReady s.seq.phase = true ∧
    s.host.head? ≠ some .reset ∧ step s = .next t ∧ t.seq.phase = .fault :=
  ⟨stateIn Config.env.cfg .idle [.present 0x00000000#32], _, stateIn_run _ _ _ (by decide), rfl,
    by simp [stateIn], step_eq _, rfl⟩

theorem witness_FaultEntryPrecise_later : ∃ t u : State, t.seq.phase = .fault ∧ t.host.head? ≠ some .reset ∧
    step t = .next u :=
  ⟨stateIn Cfg.observed66 .fault [.present 0#32], _, rfl, by decide, step_eq _⟩

theorem witness_FaultOnlyLeftByReset : ∃ s u : State,
    (s.seq.phase = .fault ∧ s.host = .present 0#32 :: [] ∧ s.host.head? ≠ some .reset) ∧
    (u.seq.phase = .fault ∧ u.host.head? = some .reset) :=
  ⟨stateIn Cfg.observed66 .fault [.present 0#32], stateIn Cfg.observed66 .fault [.reset], by decide⟩

theorem witness_InitAccepted : ∃ s : State, s.seq.phase = .uninit := ⟨State.reset, rfl⟩

theorem witness_InitPinActions : ∃ s u v : State,
    (s.seq.phase = .iCtrl ∧ s.seq.rasN = true ∧ s.seq.casN = true ∧ s.seq.weN = true) ∧
    u.seq.phase = .iAddr ∧ v.seq.phase = .iData :=
  ⟨stateIn Cfg.observed66 .iCtrl [], stateIn Cfg.observed66 .iAddr [], stateIn Cfg.observed66 .iData [], by decide⟩

theorem witness_InitCompletes : ∃ s : State, InRun Config.env s ∧ s.seq.phase = .uninit :=
  ⟨stateIn Config.env.cfg .uninit [], stateIn_run _ _ _ (by decide), rfl⟩

/-- In each of the phases of the frame: accepted, refused (in `IDLE`), and the three phases of the command. -/
theorem witness_InitFrame (p : Phase) (hp : phaseReady p = true ∨ phaseOfInit p = true) : ∃ s t : State,
    InRun Config.env s ∧ s.seq.phase = p ∧ (phaseReady s.seq.phase = true ∨ phaseOfInit s.seq.phase = true) ∧
    exec .init s = .next t :=
  ⟨stateIn Config.env.cfg p [], _, stateIn_run _ _ _ (by rintro rfl; simp [phaseReady, phaseOfInit] at hp),
    rfl, hp, exec_eq _ _⟩

theorem witness_WriteAccepted : ∃ (s : State) (r k v : Byte),
    s.seq.phase = .idle ∧ (Instr.write r k v).WellFormed Config.env.cfg :=
  ⟨stateIn Cfg.observed66 .idle [], 0#8, 0#8, 0#8, rfl, (zero_fits _).1⟩

theorem witness_WritePinActions : ∀ p ∈ [Phase.wRow, .wRas, .wData, .wDrive, .wWe, .wCol, .wCas],
    ∃ s : State, s.seq.phase = p := fun p _ => ⟨stateIn Cfg.observed66 p [], rfl⟩

/-- Every release phase, under every release order. -/
theorem witness_ReleaseActionsByOrder : ∀ p ∈ [Phase.wX1, .wX2, .wX3], ∀ (wr : WriteRelease) (we : WeRelease),
    ∃ (e : Env) (s : State), e.cfg.writeRelease = wr ∧ e.cfg.weRelease = we ∧ s.seq.phase = p := fun p _ wr we =>
  ⟨env { Cfg.observed66 with writeRelease := wr, weRelease := we } 2 11 [], stateIn Cfg.observed66 p [], rfl, rfl, rfl⟩

theorem witness_ReleaseLevels : ∀ (wr : WriteRelease) (we : WeRelease), ∃ (e : Env) (s : State), InRun e s ∧
    s.seq.phase = .wX1 ∧ NoResetDuring 3 s ∧ e.cfg.writeRelease = wr ∧ e.cfg.weRelease = we := fun wr we =>
  ⟨env { Cfg.observed66 with writeRelease := wr, weRelease := we } 2 11 [],
    stateIn { Cfg.observed66 with writeRelease := wr, weRelease := we } .wX1 [],
    stateIn_run (env { Cfg.observed66 with writeRelease := wr, weRelease := we } 2 11 []) _ _ (fun h => nomatch h),
    rfl, by simp [NoResetDuring, stateIn], rfl, rfl⟩

/-- The same from reset: INIT, then a WRITE, up to `W_X1`. -/
theorem witness_ReleaseLevels_reached : ∃ (e : Env) (s : State), e.cfg.Valid ∧ Reached e s ∧ s.seq.phase = .wX1 ∧
    NoResetDuring 3 s :=
  ⟨env66, runIn env66 8 { idleAfterInit env66 with host := [.present 0x80251BA7#32] }, by decide,
    ⟨{ State.reset with host := [.present 0x00000000#32, .idle, .idle, .idle, .present 0x80251BA7#32] }, 12,
      ⟨rfl, rfl, rfl, rfl⟩, rfl⟩, by decide, by decide⟩

theorem witness_WriteStoresItsCell : ∃ s : State, InRun Config.env s ∧ s.seq.phase = .wCas ∧
    cellKey 0#8 1#8 ≠ cellKey s.seq.row s.seq.col :=
  ⟨stateIn Config.env.cfg .wCas [], stateIn_run _ _ _ (by decide), rfl, by decide⟩

theorem witness_WriteCompletes : ∃ (s : State) (r k v : Byte), InRun Config.env s ∧ s.seq.phase = .idle ∧
    (Instr.write r k v).WellFormed Config.env.cfg :=
  ⟨stateIn Config.env.cfg .idle [], 0#8, 0#8, 0#8, stateIn_run _ _ _ (by decide), rfl, (zero_fits _).1⟩

theorem witness_ContentionOnlyUnderEZS :
    (∃ (e : Env) (s : State), e.cfg.Valid ∧ InRun e s ∧ ¬ OrderEZS e.cfg) ∧
    ∃ (e : Env) (s : State), e.cfg.Valid ∧ InRun e s ∧ OrderEZS e.cfg ∧ s.seq.phase = .wX1 ∧ NoResetDuring 1 s :=
  ⟨⟨env66, stateIn Cfg.observed66 .wX1 [], by decide, stateIn_run env66 _ _ (by decide), by decide⟩,
    ⟨env cfgEZS 2 11 [], stateIn cfgEZS .wX1 [], by decide,
      stateIn_run (env cfgEZS 2 11 []) _ _ (by decide), by decide, rfl, by simp [NoResetDuring, stateIn]⟩⟩

theorem witness_WriteFrame (p : Phase) (hp : phaseReady p = true ∨ phaseOfWrite p = true) :
    ∃ (s t : State) (r k v : Byte), InRun Config.env s ∧ s.seq.phase = p ∧
      (phaseReady s.seq.phase = true ∨ phaseOfWrite s.seq.phase = true) ∧ exec (.write r k v) s = .next t :=
  ⟨stateIn Config.env.cfg p [], _, 0#8, 0#8, 0#8,
    stateIn_run _ _ _ (by rintro rfl; simp [phaseReady, phaseOfWrite] at hp), rfl, hp, exec_eq _ _⟩

/-- The store of `W_CAS` leaves a neighbouring cell out: the frame's clause about it is not empty. -/
theorem witness_WriteFrame_other_cell : ∃ s : State, s.seq.phase = .wCas ∧
    openCell (latchCol env66 s.edge s.seq (writeEdge env66 0#8 0#8 0#8 s).seq
      (latchRow env66 s.edge s.seq (writeEdge env66 0#8 0#8 0#8 s).seq s.dev)) ≠ some (cellKey 0#8 1#8) :=
  ⟨stateIn Cfg.observed66 .wCas [], by decide⟩

theorem witness_ReadAccepted : ∃ (s : State) (r k : Byte),
    s.seq.phase = .idle ∧ (Instr.read r k).WellFormed Config.env.cfg :=
  ⟨stateIn Cfg.observed66 .idle [], 0#8, 0#8, rfl, (zero_fits _).2⟩

theorem witness_ReadPinActions :
    (∀ p ∈ [Phase.rRow, .rRas, .rCol, .rCas, .rSettle, .rSample, .rRel], ∃ s : State, s.seq.phase = p) ∧
    ∃ s : State, s.seq.phase = .rRel ∧ s.seq.rasN = false ∧ s.seq.casN = false ∧ s.seq.ctrlOe = true :=
  ⟨fun p _ => ⟨stateIn Cfg.observed66 p [], rfl⟩, stateIn Cfg.observed66 .rRel [], by decide⟩

theorem witness_ReadCompletes : ∃ (s : State) (r k : Byte), InRun Config.env s ∧ s.seq.phase = .idle ∧
    (Instr.read r k).WellFormed Config.env.cfg :=
  ⟨stateIn Config.env.cfg .idle [], 0#8, 0#8, stateIn_run _ _ _ (by decide), rfl, (zero_fits _).2⟩

/-- The shortest and the longest settle loop. -/
theorem witness_SettleLoopIsCounted : ∀ n ∈ [0, 1, 255], ∃ (e : Env) (s : State), e.cfg.settleCycles = n ∧
    e.cfg.Valid ∧ s.seq.phase = .rCas ∧ NoResetDuring (1 + n) s := by
  intro n hn
  refine ⟨env { Cfg.observed66 with settleCycles := n } 0 11 [], stateIn Cfg.observed66 .rCas [], rfl, ?_, rfl,
    by simp [NoResetDuring, stateIn]⟩
  simp only [List.mem_cons, List.not_mem_nil, or_false] at hn
  rcases hn with rfl | rfl | rfl <;> decide

/-- A state in `R_SAMPLE` with the value `0xA7` in the open cell, of the age V30 computes; `retention` is one above it. -/
def sampleState : State :=
  { (stateIn Cfg.observed66 .rSample []) with
    dev := { mem := [(0, 0xA7#8)], ages := [(0, 10)], rowL := some 0#8, colL := some 0#8 } }

theorem witness_SampleReturnsFreshStore : ∃ (e : Env) (s : State) (v : Byte), InRun e s ∧ s.seq.phase = .rSample ∧
    NoResetDuring 1 s ∧ SettleOK e ∧ NotStuck e (cellKey s.seq.row s.seq.col) ∧
    Fresh e s.dev (cellKey s.seq.row s.seq.col) ∧
    Memory.stored s.dev.mem (cellKey s.seq.row s.seq.col) = some v := by
  have h := stateIn_inv (env Cfg.observed66 2 11 []) .rSample [] (by decide)
  refine ⟨env Cfg.observed66 2 11 [], sampleState, 0xA7#8, .inr ⟨h.seq, ⟨?_, ?_, ?_, ?_, ?_, ?_⟩, ?_⟩, rfl,
    by simp [NoResetDuring, sampleState, stateIn], by decide, by decide, ⟨10, by decide, by decide⟩, by decide⟩
  · exact fun _ => rfl
  · exact fun _ => rfl
  · intro hc
    exact absurd hc (by decide)
  · decide
  · decide
  · intro cell hc
    simp only [sampleState, List.mem_cons, List.not_mem_nil, or_false] at hc
    subst hc
    exact ⟨⟨0#8, 0#8, by decide⟩, by decide⟩
  · intro hc
    exact absurd hc (by decide)

/-- V52: one settle cycle where the path needs two. -/
theorem witness_ShortSettleReadsDraw : ∃ (e : Env) (s : State) (r k : Byte), e.cfg.Valid ∧
    e.cfg.settleCycles < e.minSettle ∧ InRun e s ∧ s.seq.phase = .idle ∧ (Instr.read r k).WellFormed e.cfg :=
  ⟨env cfg22n 2 11 [], stateIn cfg22n .idle [], 3#8, 3#8, by decide, by decide,
    stateIn_run (env cfg22n 2 11 []) _ _ (by decide), rfl, by decide⟩

/-- V30, P1: the smallest `retention`, the last cell, the largest value. -/
theorem witness_WriteReadRoundTrip : ∃ (e : Env) (s : State) (r k v : Byte), e.cfg.Valid ∧ InRun e s ∧
    s.seq.phase = .idle ∧ (Instr.write r k v).WellFormed e.cfg ∧ SettleOK e ∧ NotStuck e (cellKey r k) ∧
    9 + e.cfg.settleCycles ≤ e.retention :=
  ⟨env Cfg.observed66 2 11 [], stateIn Cfg.observed66 .idle [], 0x3F#8, 0x3F#8, 0xFF#8, by decide,
    stateIn_run (env Cfg.observed66 2 11 []) _ _ (by decide), rfl, by decide, by decide, by decide, by decide⟩

/-- The same from the state INIT leaves, which a run from reset comes to; the host of the statement keeps its duties there. -/
theorem witness_WriteReadRoundTrip_reached : ∃ (e : Env) (s : State) (r k v : Byte), e.cfg.Valid ∧ Reached e s ∧
    s.seq.phase = .idle ∧ (Instr.write r k v).WellFormed e.cfg ∧ SettleOK e ∧ NotStuck e (cellKey r k) ∧
    9 + e.cfg.settleCycles ≤ e.retention ∧
    HostDuties e 12 { s with
      host := .present (encode (.write r k v)) :: List.replicate 11 (.present (encode (.read r k))) } :=
  ⟨env Cfg.observed66 2 11 [], idleAfterInit (env Cfg.observed66 2 11 []), 0x3F#8, 0x3F#8, 0xFF#8, by decide,
    idleAfterInit_reached _, by decide, by decide, by decide, by decide, by decide, by decide⟩

/-- The other way into `InRun`: the idle state INIT leaves, in the machine's own deployment, for the claims that start in `IDLE`. -/
theorem witness_idle_reached : (Config.env.cfg.Valid ∧ Reached Config.env (idleAfterInit Config.env)) ∧
    (idleAfterInit Config.env).seq.phase = .idle ∧ (Instr.write 0#8 0#8 0#8).WellFormed Config.env.cfg ∧
    (Instr.read 0#8 0#8).WellFormed Config.env.cfg :=
  ⟨⟨config_valid, idleAfterInit_reached _⟩, idleAfterInit_idle _, zero_fits _⟩

/-- The same for the claims that start in `UNINIT`, and for a READ that samples too early. -/
theorem witness_uninit_reached : (Config.env.cfg.Valid ∧ Reached Config.env State.reset) ∧ State.reset.seq.phase = .uninit :=
  ⟨⟨config_valid, State.reset, 0, ⟨rfl, rfl, rfl, rfl⟩, rfl⟩, rfl⟩

theorem witness_ShortSettleReadsDraw_reached : ∃ (e : Env) (s : State) (r k : Byte), e.cfg.Valid ∧
    e.cfg.settleCycles < e.minSettle ∧ Reached e s ∧ s.seq.phase = .idle ∧ (Instr.read r k).WellFormed e.cfg :=
  ⟨env cfg22n 2 11 [], idleAfterInit _, 3#8, 3#8, by decide, by decide, idleAfterInit_reached _, rfl, by decide⟩

theorem witness_ReadFrame (p : Phase) (hp : phaseReady p = true ∨ phaseOfRead p = true) (h : p ≠ .rSettle) :
    ∃ (s t : State) (r k : Byte), InRun Config.env s ∧ s.seq.phase = p ∧
      (phaseReady s.seq.phase = true ∨ phaseOfRead s.seq.phase = true) ∧ exec (.read r k) s = .next t :=
  ⟨stateIn Config.env.cfg p [], _, 0#8, 0#8, stateIn_run _ _ _ (fun hc => absurd hc h), rfl, hp, exec_eq _ _⟩

theorem witness_CommandLengths :
    env66.cfg.Valid ∧ (∃ s : State, s.seq.phase = .uninit) ∧
    (∃ s : State, s.seq.phase = .idle ∧ (Instr.write 0x3F#8 0x3F#8 0xFF#8).WellFormed env66.cfg ∧
      (Instr.read 0x3F#8 0x3F#8).WellFormed env66.cfg ∧ Instr.read 0x3F#8 0x3F#8 ≠ .init ∧
      8 < commandSteps env66.cfg (.read 0x3F#8 0x3F#8)) ∧
    (∃ (s : State) (word : CmdWord) (why : ReservedWord), decode word = .reserved why ∧
      phaseReady s.seq.phase = true) ∧
    (∃ (s : State) (i : Instr), s.seq.phase = .uninit ∧ i ≠ .init) ∧
    (∃ s : State, s.seq.phase = .idle) ∧
    ∃ (s : State) (i : Instr), s.seq.phase = .idle ∧ ¬ i.WellFormed env66.cfg :=
  ⟨by decide, ⟨State.reset, rfl⟩, ⟨stateIn Cfg.observed66 .idle [], by decide⟩,
    ⟨State.reset, 0xC0000000#32, .reservedOp, by decide, rfl⟩, ⟨State.reset, .write 0#8 0#8 0#8, by decide⟩,
    ⟨stateIn Cfg.observed66 .idle [], rfl⟩, ⟨stateIn Cfg.observed66 .idle [], .read 0#8 0x40#8, by decide⟩⟩

/-- A READ held from `W_X2` on, and a word that is accepted at once after reset. -/
theorem witness_WaitingWordIsAccepted :
    (∃ (e : Env) (s : State) (word : CmdWord) (rest : List HostMove), e.cfg.Valid ∧ InRun e s ∧
      s.host = .present word :: rest ∧ NoResetDuring (max 10 (6 + e.cfg.settleCycles) + 1) s ∧
      HostDuties e (max 10 (6 + e.cfg.settleCycles)) s ∧
      NoFault e 0 s ∧ phaseBusy s.seq.phase = true) ∧
    ∃ (e : Env) (s : State) (word : CmdWord) (rest : List HostMove), e.cfg.Valid ∧ Reached e s ∧
      s.host = .present word :: rest ∧ NoResetDuring (max 10 (6 + e.cfg.settleCycles) + 1) s ∧
      HostDuties e (max 10 (6 + e.cfg.settleCycles)) s ∧
      NoFault e 0 s :=
  ⟨⟨env66, stateIn Cfg.observed66 .wX2 (List.replicate 3 (.present 0x40251B00#32)), _, _, by decide,
      stateIn_run env66 _ _ (by decide), rfl, by decide, by decide, by decide, rfl⟩,
    env66, { State.reset with host := [.present 0x00000000#32] }, _, _, by decide,
    ⟨_, 0, ⟨rfl, rfl, rfl, rfl⟩, rfl⟩, rfl, by decide, by decide, by decide⟩

/-- Falling and rising strobes, with driven and with released address lines. -/
theorem witness_DeviceLatches : ∃ high ras both : Seq, high.ctrlOe = true ∧ ras.ctrlOe = true ∧ both.ctrlOe = true ∧
    (high.rasN = true ∧ ras.rasN = false) ∧ (ras.rasN = false ∧ high.rasN = true) ∧ ras.rasN = both.rasN ∧
    (ras.casN = true ∧ both.casN = false ∧ both.rasN = false) ∧ (both.casN = false ∧ high.casN = true) ∧
    high.casN = ras.casN :=
  ⟨seqIn Cfg.observed66 .rRow, seqIn Cfg.observed66 .rCol, seqIn Cfg.observed66 .rSample, by decide⟩

theorem witness_DeviceStores : ∃ (b a : Seq) (d : Device), a.ctrlOe = true ∧ b.casN = true ∧ a.casN = false ∧
    a.rasN = false ∧ a.weN = false ∧ (react env66 0 b a d).rowL = some 0#8 ∧ (react env66 0 b a d).colL = some 0#8 ∧
    1 ≠ cellKey 0#8 0#8 :=
  ⟨seqIn Cfg.observed66 .wCas, seqIn Cfg.observed66 .wX1, (stateIn Cfg.observed66 .wCas []).dev, by decide⟩

theorem witness_DeviceDrivesByLevel :
    (∃ s t : State, step s = .next t ∧ s.contention = true) ∧
    (∃ (q : Seq) (d : Device), drivenCell q d = some 0) ∧
    (∃ s : State, drivenCell s.seq s.dev = some 0 ∧ s.seq.dqOe = false) ∧
    ∃ (e : Env) (s : State), s.host.head? ≠ some .reset ∧
      (∃ key, drivenCell (stepIn e s).seq (stepIn e s).dev = some key) ∧ (stepIn e s).seq.dqOe = true :=
  ⟨⟨{ State.reset with contention := true }, _, step_eq _, rfl⟩,
    ⟨seqIn Cfg.observed66 .rSample, (stateIn Cfg.observed66 .rSample []).dev, by decide⟩,
    ⟨stateIn Cfg.observed66 .rSample [], by decide⟩,
    ⟨env cfgEZS 2 11 [], stateIn cfgEZS .wX1 [], by decide, ⟨0, by decide⟩, by decide⟩⟩

/-- With the machine's own deployment, whatever its release order: a step that leaves device and sequencer driving. -/
theorem witness_DeviceDrivesByLevel_step : ∃ s t : State, step s = .next t ∧ s.host.head? ≠ some .reset ∧
    (∃ key, drivenCell t.seq t.dev = some key) ∧ t.seq.dqOe = true := by
  let q : Seq := { seqIn Cfg.observed66 .rSample with phase := .idle, dqOe := true }
  let d : Device := (stateIn Cfg.observed66 .rSample []).dev
  refine ⟨{ State.reset with seq := q, dev := d }, _, step_eq _, by decide, ⟨0, ?_⟩, rfl⟩
  show drivenCell q (react Config.env 0 q q d) = some 0
  rw [react_still Config.env 0 q q d rfl rfl rfl rfl]
  decide

theorem witness_SampledLevels :
    (∃ (e : Env) (q : Seq) (d : Device), drivenCell q d = some 0 ∧ q.dqOe = false ∧ SettleOK e) ∧
    (∃ (q : Seq) (d : Device), drivenCell q d = none) ∧ (∃ q : Seq, q.dqOe = true) ∧ ∃ e : Env, ¬ SettleOK e :=
  ⟨⟨env66, seqIn Cfg.observed66 .rSample, (stateIn Cfg.observed66 .rSample []).dev, by decide⟩,
    ⟨Seq.reset, Device.reset, by decide⟩, ⟨seqIn Cfg.observed66 .wX1, by decide⟩, ⟨env cfg22n 2 11 [], by decide⟩⟩

/-- A stuck cell; a fresh cell of the largest age below `retention`; the same cell at `retention`; a cell never stored. -/
theorem witness_CellContents :
    (∃ (e : Env) (v : Byte), Table.find e.stuck 0x0201 = some v) ∧ (∃ e : Env, NotStuck e 0x0201) ∧
    (∃ (e : Env) (d : Device) (v : Byte) (age : Nat), Memory.stored d.mem 0 = some v ∧
      Table.find d.ages 0 = some age ∧ age < e.retention) ∧
    (∃ (e : Env) (d : Device) (age : Nat), Table.find d.ages 0 = some age ∧ e.retention ≤ age) ∧
    ∃ d : Device, Memory.stored d.mem 1 = none :=
  ⟨⟨env cfg22n 1 175 [(0x0201, 0#8)], 0#8, by decide⟩, ⟨env66, by decide⟩,
    ⟨env cfg22n 1 11 [], sampleState.dev, 0xA7#8, 10, by decide⟩,
    ⟨env cfg22n 1 10 [], sampleState.dev, 10, by decide⟩, ⟨sampleState.dev, by decide⟩⟩

theorem witness_FloatingDeviceIsFree : ∃ s t : State, step s = .next t ∧ s.host.head? ≠ some .reset ∧
    t.seq.ctrlOe = false :=
  ⟨State.reset, _, step_eq _, by decide, rfl⟩

theorem witness_CellsAge : ∃ s t : State, InRun Config.env s ∧ step s = .next t ∧ s.host.head? ≠ some .reset ∧
    s.seq.phase = .wCas ∧ cellKey s.seq.row s.seq.col = 0 :=
  ⟨stateIn Config.env.cfg .wCas [], _, stateIn_run _ _ _ (by decide), step_eq _, by simp [stateIn], rfl, rfl⟩

theorem witness_PinRegisterWriters_release : ∃ s t : State, step s = .next t ∧ s.host.head? ≠ some .reset ∧
    t.seq.casN = true ∧ s.seq.casN = false ∧ t.seq.rasN = true ∧ s.seq.rasN = false :=
  ⟨stateIn Cfg.observed66 .rRel [], _, step_eq _, by decide, rfl, rfl, rfl, rfl⟩

/-- A step that changes the registers of the statement, in the phase the statement names, and one under a presented command. -/
theorem witness_PinRegisterWriters : ∃ s t : State, step s = .next t ∧ s.host.head? ≠ some .reset ∧
    t.seq.rasN = false ∧ s.seq.rasN = true :=
  ⟨stateIn Cfg.observed66 .rRas [], _, step_eq _, by decide, rfl, rfl⟩

theorem witness_PinRegisterWriters_init : ∃ s t : State, step s = .next t ∧ s.host.head? ≠ some .reset ∧
    t.seq.ctrlOe ≠ s.seq.ctrlOe ∧ t.seq.rasN = true ∧ s.seq.rasN = false ∧ t.seq.weN = true ∧ s.seq.weN = false :=
  ⟨{ State.reset with seq := { Seq.reset with phase := .iCtrl, rasN := false, weN := false } }, _, step_eq _, by decide,
    by show true ≠ false; decide, rfl, rfl, rfl, rfl⟩

theorem witness_PinRegisterWriters_write : ∃ s t u v w x : State,
    (step s = .next t ∧ s.host.head? ≠ some .reset ∧ t.seq.casN = false ∧ s.seq.casN = true) ∧
    (step u = .next v ∧ u.host.head? ≠ some .reset ∧ v.seq.weN = false ∧ u.seq.weN = true) ∧
    (step w = .next x ∧ w.host.head? ≠ some .reset ∧ x.seq.dqOe = true ∧ w.seq.dqOe = false) :=
  ⟨stateIn Cfg.observed66 .wCas [], _, stateIn Cfg.observed66 .wWe [], _, stateIn Cfg.observed66 .wDrive [], _,
    ⟨step_eq _, by decide, rfl, rfl⟩, ⟨step_eq _, by decide, rfl, rfl⟩, ⟨step_eq _, by decide, rfl, rfl⟩⟩

theorem witness_PinRegisterWriters_values : ∃ s t u v : State,
    (step s = .next t ∧ s.host.head? ≠ some .reset ∧ t.seq.addrOut ≠ s.seq.addrOut ∧ t.seq.addrOe ≠ s.seq.addrOe) ∧
    (step u = .next v ∧ u.host.head? ≠ some .reset ∧ v.seq.dqOut ≠ u.seq.dqOut) ∧
    ∃ w x : State, step w = .next x ∧ w.host.head? ≠ some .reset ∧ x.seq.dqOe = false ∧ w.seq.dqOe = true :=
  ⟨{ State.reset with seq := { Seq.reset with phase := .iAddr, addrOut := 1#8 } }, _,
    { State.reset with seq := { Seq.reset with phase := .wData, wdata := 1#8 } }, _,
    ⟨step_eq _, by decide, by show 0#8 ≠ 1#8; decide, by show true ≠ false; decide⟩,
    ⟨step_eq _, by decide, by show 1#8 ≠ 0#8; decide⟩,
    { State.reset with seq := { Seq.reset with phase := .iData, dqOe := true } }, _, step_eq _, by decide, rfl, rfl⟩

theorem witness_AddressBeforeStrobe : ∃ s t u v : State,
    (InRun Config.env s ∧ step s = .next t ∧ s.host.head? ≠ some .reset ∧ s.seq.rasN = true ∧ t.seq.rasN = false) ∧
    (InRun Config.env u ∧ step u = .next v ∧ u.host.head? ≠ some .reset ∧ u.seq.casN = true ∧ v.seq.casN = false) :=
  ⟨stateIn Config.env.cfg .rRas [], _, stateIn Config.env.cfg .rCas [], _,
    ⟨stateIn_run _ _ _ (by decide), step_eq _, by simp [stateIn], rfl, rfl⟩,
    ⟨stateIn_run _ _ _ (by decide), step_eq _, by simp [stateIn], rfl, rfl⟩⟩

theorem witness_WriteOrderIntoDevice : ∃ s t u v w x : State,
    (InRun Config.env s ∧ step s = .next t ∧ s.host.head? ≠ some .reset ∧ s.seq.dqOe = false ∧ t.seq.dqOe = true) ∧
    (InRun Config.env u ∧ step u = .next v ∧ u.host.head? ≠ some .reset ∧ u.seq.weN = true ∧ v.seq.weN = false) ∧
    (InRun Config.env w ∧ step w = .next x ∧ w.host.head? ≠ some .reset ∧ w.seq.casN = true ∧ x.seq.casN = false ∧
      w.seq.weN = false) :=
  ⟨stateIn Config.env.cfg .wDrive [], _, stateIn Config.env.cfg .wWe [], _, stateIn Config.env.cfg .wCas [], _,
    ⟨stateIn_run _ _ _ (by decide), step_eq _, by simp [stateIn], rfl, rfl⟩,
    ⟨stateIn_run _ _ _ (by decide), step_eq _, by simp [stateIn], rfl, rfl⟩,
    ⟨stateIn_run _ _ _ (by decide), step_eq _, by simp [stateIn], rfl, rfl, rfl⟩⟩

theorem witness_WriteOrderIntoDevice_phases : ∀ p ∈ [Phase.wCol, .wCas], ∃ s t : State, InRun Config.env s ∧
    step s = .next t ∧ s.host.head? ≠ some .reset ∧ s.seq.phase = p := by
  intro p hp
  refine ⟨stateIn Config.env.cfg p [], _, stateIn_run _ _ _ ?_, step_eq _, by simp [stateIn], rfl⟩
  rintro rfl
  exact absurd hp (by decide)

theorem witness_FlagWriters : ∃ s t u v w x : State,
    (step s = .next t ∧ s.host.head? ≠ some .reset ∧ t.seq.inited ≠ s.seq.inited) ∧
    (step u = .next v ∧ u.host.head? ≠ some .reset ∧ v.seq.rspValid = true ∧ u.seq.rspValid = false) ∧
    (step w = .next x ∧ w.host.head? ≠ some .reset ∧ x.seq.rspValid = false ∧ w.seq.rspValid = true ∧
      x.seq.faultCode ≠ w.seq.faultCode ∧ phaseReady w.seq.phase = true ∧
      ∃ word rest, w.host = .present word :: rest) :=
  ⟨stateIn Cfg.observed66 .iData [], _, stateIn Cfg.observed66 .rRel [], _,
    { (stateIn Cfg.observed66 .idle [.present 0#32]) with seq := { seqIn Cfg.observed66 .idle with rspValid := true } }, _,
    ⟨step_eq _, by decide, by show true ≠ false; decide⟩, ⟨step_eq _, by decide, rfl, rfl⟩,
    step_eq _, by decide, rfl, rfl, by show 3#3 ≠ 0#3; decide, rfl, _, _, rfl⟩

theorem witness_DataRegisterWriters :
    (∃ s t : State, step s = .next t ∧ s.host.head? ≠ some .reset ∧
      (t.seq.row ≠ s.seq.row ∨ t.seq.col ≠ s.seq.col) ∧ t.seq.wdata ≠ s.seq.wdata) ∧
    (∃ s t : State, step s = .next t ∧ s.host.head? ≠ some .reset ∧ t.seq.cnt ≠ s.seq.cnt) ∧
    ∃ (e : Env) (s : State), s.host.head? ≠ some .reset ∧ (stepIn e s).seq.rdata ≠ s.seq.rdata := by
  refine ⟨?_, ⟨stateIn Cfg.observed66 .rSettle [], _, step_eq _, by decide, by show 0#8 ≠ 1#8; decide⟩,
    ⟨env66, sampleState, by decide, by decide⟩⟩
  let s : State :=
    { (stateIn Cfg.observed66 .idle [.present 0x80000000#32]) with
      seq := { seqIn Cfg.observed66 .idle with row := 1#8, wdata := 1#8 } }
  have h : (commandEdge Config.env (.write 0#8 0#8 0#8) { s with host := [] }).seq =
      { s.seq with rspValid := false, row := 0#8, col := 0#8, wdata := 0#8, phase := .wRow } := by
    have hf := (zero_fits Config.env.cfg).1
    simp only [commandEdge_ready Config.env _ { s with host := [] } rfl, edgeTo_seq]
    simp only [acceptWrite, indexFits, valueFits, hf.1, hf.2.1, hf.2.2, maskW, maskBits_of_lt _ _ hf.2.2]
    rfl
  refine ⟨s, _, step_eq _, by decide, ?_⟩
  rw [stepIn_command Config.env s 0x80000000#32 [] (.write 0#8 0#8 0#8) rfl (by decide), h]
  decide

theorem witness_StepKeepsInvariant : ∃ s t : State, Inv Config.env s ∧ step s = .next t :=
  ⟨stateIn Config.env.cfg .wCas [], _, stateIn_inv _ _ _ (by decide), step_eq _⟩

theorem witness_InvariantGivesR39_reached : ∃ (e : Env) (s : State), e.cfg.Valid ∧ Reached e s ∧ s.seq.phase = .idle :=
  ⟨env66, idleAfterInit env66, by decide, idleAfterInit_reached _, by decide⟩

/-- Each clause of R39 in a state where its premise holds. -/
theorem witness_InvariantGivesR39 : ∃ e : Env, (∃ s, Inv e s ∧ s.seq.phase = .uninit) ∧
    (∃ s, Inv e s ∧ s.seq.phase = .idle) ∧ (∃ s, Inv e s ∧ s.seq.dqOe = true ∧ s.seq.weN = false) ∧
    (∃ s, Inv e s ∧ phaseOfRead s.seq.phase = true ∧ s.seq.casN = false) ∧
    (∃ s, Inv e s ∧ s.seq.phase = .fault) ∧ ∀ port ∈ e.cfg.lineMap, port.val ≠ 2 :=
  ⟨env66, ⟨stateIn Cfg.observed66 .uninit [], stateIn_inv env66 _ _ (by decide), rfl⟩,
    ⟨stateIn Cfg.observed66 .idle [], stateIn_inv env66 _ _ (by decide), rfl⟩,
    ⟨stateIn Cfg.observed66 .wX1 [], stateIn_inv env66 _ _ (by decide), rfl, rfl⟩,
    ⟨stateIn Cfg.observed66 .rSettle [], stateIn_inv env66 _ _ (by decide), rfl, rfl⟩,
    ⟨stateIn Cfg.observed66 .fault [], stateIn_inv env66 _ _ (by decide), rfl⟩, by decide⟩

theorem witness_MemoryFormKept : ∃ s t : State, Memory.wf s.dev.mem ∧ s.dev.mem.length = 2 ∧ step s = .next t :=
  ⟨{ (stateIn Cfg.observed66 .wCas []) with
      dev := { mem := [(0, 1#8), (5, 2#8)], ages := [(0, 3), (5, 4)], rowL := some 0#8, colL := none } },
    _, by decide, rfl, step_eq _⟩

theorem witness_GridCoveredOnce : cfg22n.Valid ∧ (0#8, 0#8) ∈ gridCells cfg22n ∧ (3#8, 3#8) ∈ gridCells cfg22n := by
  decide

theorem witness_WaitOnlyAges : ∃ (e : Env) (s : State), e.cfg.Valid ∧ InRun e s ∧ s.seq.phase = .idle :=
  ⟨env66, stateIn Cfg.observed66 .idle [], by decide, stateIn_run env66 _ _ (by decide), rfl⟩

/-- The largest value of a nibble, read back as 0 and as itself. -/
theorem witness_ReportBounds : ∃ (c : Cfg) (expected : Byte) (readings : List Reading), readings.length = 2 ∧
    expected.toNat < 2 ^ c.width.bits ∧ ∀ x ∈ readings, x.actual.toNat < 2 ^ c.width.bits :=
  ⟨cfg22n, 0xF#8, [⟨0#8, 0#8, 0#8⟩, ⟨0#8, 1#8, 0xF#8⟩], by decide⟩

theorem witness_ReportOrderIndependent : ∃ xs ys : List Reading, xs.Perm ys ∧ xs ≠ ys :=
  ⟨[⟨0#8, 0#8, 0#8⟩, ⟨0#8, 1#8, 0xF#8⟩], [⟨0#8, 1#8, 0xF#8⟩, ⟨0#8, 0#8, 0#8⟩], List.Perm.swap _ _ _, by decide⟩

/-- P2, P3: the nibble grid with the bound of R190, and the largest pattern. -/
theorem witness_FillThenVerifyAgree : ∃ (e : Env) (s : State) (pattern : Byte), e.cfg.Valid ∧ InRun e s ∧
    s.seq.phase = .idle ∧ pattern.toNat < 2 ^ e.cfg.width.bits ∧ SettleOK e ∧ e.stuck = [] ∧
    e.cfg.rows * e.cfg.cols * (11 + 7 + e.cfg.settleCycles) ≤ e.retention :=
  ⟨env cfg22n 1 304 [], stateIn cfg22n .idle [], 0xF#8, by decide,
    stateIn_run (env cfg22n 1 304 []) _ _ (by decide), rfl, by decide, by decide, rfl, by decide⟩

theorem witness_FillThenVerifyAgree_reached : ∃ (e : Env) (s : State) (pattern : Byte), e.cfg.Valid ∧ Reached e s ∧
    s.seq.phase = .idle ∧ pattern.toNat < 2 ^ e.cfg.width.bits ∧ SettleOK e ∧ e.stuck = [] ∧
    e.cfg.rows * e.cfg.cols * (11 + 7 + e.cfg.settleCycles) ≤ e.retention :=
  ⟨env cfg22n 1 304 [], idleAfterInit (env cfg22n 1 304 []), 0xF#8, by decide, idleAfterInit_reached _, by decide,
    by decide, by decide, rfl, by decide⟩

end Sys2Proof.Tests
end

section
namespace Sys2Proof.Machine

/-- With `rst_n` low the machine makes the reset edge, whatever state it is in (R230). -/
theorem step_reset (s : State) (rest : List HostMove) (h : s.host = .reset :: rest) :
    step s = .next (resetEdge { s with host := rest }) := by
  rw [step_eq, stepIn_reset Config.env s rest h]

/-- Settles O1: the table is read off `Seq.reset`, which is also what the reset edge of any state leaves (R40, R230). -/
theorem resetRegisterValues : Obligations.ResetRegisterValues := by
  unfold Obligations.ResetRegisterValues
  have table_after_step (s : State) (rest : List HostMove) (h : s.host = .reset :: rest) :
      ∃ t, step s = .next t ∧ t.seq = State.reset.seq :=
    ⟨_, step_reset s rest h, resetEdge_seq _⟩
  exact ⟨rfl, rfl, rfl, rfl, rfl, rfl, rfl, rfl, rfl, rfl, rfl, rfl, rfl, rfl, rfl, rfl, rfl, table_after_step⟩

end Sys2Proof.Machine
end

section
namespace Sys2Proof.Machine

/-! The wiring of the address lines, bit by bit and back (R70, R72, R73, R75). -/

/-- A set bit of a value below `2^n` stands below bit `n`. -/
theorem lt_of_getLsbD_of_lt {a : Byte} {n j : Nat} (ha : a.toNat < 2 ^ n) (hb : a.getLsbD j = true) : j < n := by
  have hj : 2 ^ j ≤ a.toNat := Nat.ge_two_pow_of_testBit hb
  exact (Nat.pow_lt_pow_iff_right (by decide)).mp (hj.trans_lt ha)

/-- An index has at most as many bits as there are ports (R6, R8). -/
theorem addrBits_le_of_valid {c : Cfg} (hc : c.Valid) : c.addrBits ≤ 8 := by
  obtain ⟨⟨-, hrow⟩, ⟨-, hcol⟩, -⟩ := hc
  exact max_le hrow hcol

/-- A wired port bit carries the index bit wired to it, since no other bit is wired to the same port (R70). -/
theorem getLsbD_addrToLines_wired (c : Cfg) (a : Byte) (hm : c.lineMap.Nodup) (i : Nat) (h : i < c.lineMap.length) :
    (addrToLines c a).getLsbD (c.lineMap[i]).val = a.getLsbD i := by
  rw [Bool.eq_iff_iff, addrToLines, getLsbD_linesFrom]
  constructor
  · rintro ⟨n, hn, hport, hbit⟩
    obtain rfl : n = i := hm.getElem_inj_iff.mp (Fin.ext hport)
    rwa [Nat.zero_add] at hbit
  · intro hbit
    exact ⟨i, h, rfl, by rwa [Nat.zero_add]⟩

/-- A port bit that nothing is wired to is 0 (R70). -/
theorem getLsbD_addrToLines_unwired (c : Cfg) (a : Byte) (j : Nat) (hj : ∀ port ∈ c.lineMap, port.val ≠ j) :
    (addrToLines c a).getLsbD j = false := by
  rw [Bool.eq_false_iff, addrToLines, Ne, getLsbD_linesFrom]
  rintro ⟨n, hn, hport, -⟩
  exact hj _ (List.getElem_mem hn) hport

/-- The inverse wiring gives an index back (R72, R73). -/
theorem linesToAddr_addrToLines (c : Cfg) (a : Byte) (hc : c.Valid) (ha : a.toNat < 2 ^ c.addrBits) :
    linesToAddr c (addrToLines c a) = a := by
  have hbits := addrBits_le_of_valid hc
  obtain ⟨-, -, hlen, hm, -⟩ := hc
  apply BitVec.eq_of_getLsbD_eq
  intro j _
  rw [Bool.eq_iff_iff, linesToAddr, getLsbD_addrFrom _ _ _ _ (by omega)]
  constructor
  · rintro ⟨n, hn, hnj, hbit⟩
    obtain rfl : n = j := by omega
    rwa [getLsbD_addrToLines_wired c a hm] at hbit
  · intro hbit
    have hj : j < c.lineMap.length := hlen ▸ lt_of_getLsbD_of_lt ha hbit
    exact ⟨j, hj, Nat.zero_add j, by rwa [getLsbD_addrToLines_wired c a hm]⟩

/-- The row the device sees on a row's pattern is that row (R75). -/
theorem rowOfLines_addrToLines (c : Cfg) (a : Byte) (hc : c.Valid) (ha : a.toNat < c.rows) :
    rowOfLines c (addrToLines c a) = a := by
  have hfit : a.toNat < 2 ^ c.addrBits := ha.trans_le (Nat.pow_le_pow_right (by decide) (le_max_left _ _))
  rw [rowOfLines, linesToAddr_addrToLines c a hc hfit, maskBits_of_lt _ _ ha]

/-- The column the device sees on a column's pattern is that column (R75). -/
theorem colOfLines_addrToLines (c : Cfg) (a : Byte) (hc : c.Valid) (ha : a.toNat < c.cols) :
    colOfLines c (addrToLines c a) = a := by
  have hfit : a.toNat < 2 ^ c.addrBits := ha.trans_le (Nat.pow_le_pow_right (by decide) (le_max_right _ _))
  rw [colOfLines, linesToAddr_addrToLines c a hc hfit, maskBits_of_lt _ _ ha]

/-- Settles O11: a wired port bit by injectivity of the line map, the others since nothing reaches them. -/
theorem patternBitsFollowLineMap : Obligations.PatternBitsFollowLineMap := by
  unfold Obligations.PatternBitsFollowLineMap
  intro c a hc _
  obtain ⟨-, -, -, hm, -⟩ := hc
  exact ⟨getLsbD_addrToLines_wired c a hm, getLsbD_addrToLines_unwired c a⟩

/-- Settles O12: the inverse wiring undoes the wiring, from which injectivity and what the device sees follow. -/
theorem patternsReversible : Obligations.PatternsReversible := by
  unfold Obligations.PatternsReversible
  intro c a b hc ha hb
  refine ⟨fun hpattern => ?_, linesToAddr_addrToLines c a hc ha, rowOfLines_addrToLines c a hc,
    colOfLines_addrToLines c a hc⟩
  calc a = linesToAddr c (addrToLines c a) := (linesToAddr_addrToLines c a hc ha).symm
    _ = linesToAddr c (addrToLines c b) := by rw [hpattern]
    _ = b := linesToAddr_addrToLines c b hc hb

/-! The open cell and the store (R79). -/

/-- A cell is open exactly when both latches hold something, and then it is the one they address. -/
theorem openCell_eq_some_iff (d : Device) (key : Nat) :
    openCell d = some key ↔ ∃ r k, d.rowL = some r ∧ d.colL = some k ∧ key = cellKey r k := by
  unfold openCell
  split
  case h_1 r k hr hk => simp [hr, hk, eq_comm]
  case h_2 hnone =>
    constructor
    · rintro ⟨⟩
    · rintro ⟨r, k, hr, hk, -⟩
      exact absurd hk (hnone r k hr)

@[simp] theorem storeCell_rowL (e : Env) (n : Nat) (b a : Seq) (d : Device) :
    (storeCell e n b a d).rowL = d.rowL := by
  rcases storeCell_cases e n b a d with h | ⟨key, -, h⟩
  · rw [h]
  · rw [h, storeAt]

@[simp] theorem storeCell_colL (e : Env) (n : Nat) (b a : Seq) (d : Device) :
    (storeCell e n b a d).colL = d.colL := by
  rcases storeCell_cases e n b a d with h | ⟨key, -, h⟩
  · rw [h]
  · rw [h, storeAt]

/-- CAS falling with RAS low after the step is no strobe sequence of R90: the device latches, ages and stores. -/
theorem react_casFall (e : Env) (n : Nat) (b a : Seq) (d : Device) (hc : a.ctrlOe = true) (hb : b.casN = true)
    (hr : a.rasN = false) : react e n b a d =
      storeCell e n b a (ageDevice (latchCol e n b a (latchRow e n b a d))) := by
  simp [react, disturb, oddStrobe, hc, hb, hr]

/-- With CAS falling, RAS and WE low after the step, the open cell is stored to (R79). -/
theorem storeCell_of_openCell (e : Env) (n : Nat) (b a : Seq) (d : Device) (key : Nat) (hb : b.casN = true)
    (ha : a.casN = false) (hr : a.rasN = false) (hw : a.weN = false) (ho : openCell d = some key) :
    storeCell e n b a d = storeAt key (storedValue e n a) d := by
  simp [storeCell, hb, ha, hr, hw, ho]

@[simp] theorem stored_storeAt_same (key : Nat) (v : Byte) (d : Device) :
    Memory.stored (storeAt key v d).mem key = some v :=
  Table.find_put_same d.mem key v

@[simp] theorem find_ages_storeAt_same (key : Nat) (v : Byte) (d : Device) :
    Table.find (storeAt key v d).ages key = some 0 :=
  Table.find_put_same d.ages key 0

theorem stored_storeAt_other (key other : Nat) (v : Byte) (d : Device) (h : other ≠ key) :
    Memory.stored (storeAt key v d).mem other = Memory.stored d.mem other :=
  Table.find_put_other d.mem key other v h

theorem find_ages_storeAt_other (key other : Nat) (v : Byte) (d : Device) (h : other ≠ key) :
    Table.find (storeAt key v d).ages other = Table.find d.ages other :=
  Table.find_put_other d.ages key other 0 h

/-- Settles O41: no later part of the step moves the latches, so the cell stored to is the one they address after it; the
rest is reading a list after a write. -/
theorem deviceStores : Obligations.DeviceStores := by
  unfold Obligations.DeviceStores
  intro e n b a d r k hc hb ha hr hw hrow hcol
  rw [react_casFall e n b a d hc hb hr] at hrow hcol ⊢
  generalize hx : ageDevice (latchCol e n b a (latchRow e n b a d)) = x at hrow hcol ⊢
  have hmem : x.mem = d.mem := by simp [← hx, ageDevice]
  have hages : x.ages = ageAll d.ages := by simp [← hx, ageDevice]
  rw [storeCell_rowL] at hrow
  rw [storeCell_colL] at hcol
  have hopen : openCell x = some (cellKey r k) := (openCell_eq_some_iff x _).mpr ⟨r, k, hrow, hcol, rfl⟩
  rw [storeCell_of_openCell e n b a x _ hb ha hr hw hopen]
  refine ⟨stored_storeAt_same _ _ _, find_ages_storeAt_same _ _ _, fun other hother => ⟨?_, ?_⟩⟩
  · rw [stored_storeAt_other _ _ _ _ hother, hmem]
  · rw [find_ages_storeAt_other _ _ _ _ hother, hages, find_ageAll]

/-! What the device drives, and the contention mark (R80). -/

/-- The level condition of R80, and the cell that is driven. -/
theorem drivenCell_eq_some_iff (q : Seq) (d : Device) (key : Nat) :
    drivenCell q d = some key ↔ q.ctrlOe = true ∧ q.rasN = false ∧ q.casN = false ∧ q.weN = true ∧
      ∃ r k, d.rowL = some r ∧ d.colL = some k ∧ key = cellKey r k := by
  rw [← openCell_eq_some_iff]
  simp [drivenCell, and_assoc]

theorem contends_iff (q : Seq) (d : Device) :
    contends q d = true ↔ (∃ key, drivenCell q d = some key) ∧ q.dqOe = true := by
  simp [contends, Option.isSome_iff_exists]

/-- With the sequencer off the data lines, they carry what the device drives (R80). -/
theorem dataLines_byDevice (e : Env) (s : State) (key : Nat) (hk : drivenCell s.seq s.dev = some key)
    (hq : s.seq.dqOe = false) : dataLines e s = .byDevice (cellValue e s.edge s.dev key) := by
  simp [dataLines, dqDrive, hk, hq]

/-- The one place where the mark is written (R80). -/
theorem edgeTo_contention_iff (e : Env) (s : State) (q : Seq) :
    (edgeTo e s q).contention = true ↔ s.contention = true ∨
      ((∃ key, drivenCell (edgeTo e s q).seq (edgeTo e s q).dev = some key) ∧ (edgeTo e s q).seq.dqOe = true) := by
  rw [← contends_iff, ← Bool.or_eq_true]
  rfl

theorem reservedEdge_eq_edgeTo (e : Env) (s : State) : ∃ q, reservedEdge e s = edgeTo e s q := by
  unfold reservedEdge
  split <;> exact ⟨_, rfl⟩

theorem commandEdge_eq_edgeTo (e : Env) (i : Instr) (s : State) : ∃ q, commandEdge e i s = edgeTo e s q := by
  cases hr : phaseReady s.seq.phase with
  | false => exact ⟨_, commandEdge_busy e i s hr⟩
  | true => exact ⟨_, commandEdge_ready e i s hr⟩

/-- A step that is no reset is a clock edge to some register state, whatever the host presents. -/
theorem stepIn_eq_edgeTo (e : Env) (s : State) (h : s.host.head? ≠ some .reset) :
    ∃ q, stepIn e s = edgeTo e { s with host := s.host.tail } q := by
  match hs : s.host with
  | [] => exact ⟨_, by rw [stepIn_silent e s hs, List.tail_nil, ← hs]; rfl⟩
  | .idle :: rest => exact ⟨_, stepIn_idle e s rest hs⟩
  | .reset :: rest => simp [hs] at h
  | .present word :: rest =>
    cases hd : decode word with
    | command i =>
      rw [stepIn_command e s word rest i hs hd]
      exact commandEdge_eq_edgeTo e i _
    | reserved why =>
      rw [stepIn_reserved e s word rest why hs hd]
      exact reservedEdge_eq_edgeTo e _

/-- A step that is no reset records the mark exactly when it ends in contention (R80). -/
theorem stepIn_contention_iff (e : Env) (s : State) (h : s.host.head? ≠ some .reset) :
    (stepIn e s).contention = true ↔ s.contention = true ∨
      ((∃ key, drivenCell (stepIn e s).seq (stepIn e s).dev = some key) ∧ (stepIn e s).seq.dqOe = true) := by
  obtain ⟨q, hq⟩ := stepIn_eq_edgeTo e s h
  rw [hq]
  exact edgeTo_contention_iff e { s with host := s.host.tail } q

/-- No step clears the mark, a reset neither (R80). -/
theorem stepIn_contention_kept (e : Env) (s : State) (hm : s.contention = true) : (stepIn e s).contention = true := by
  by_cases h : s.host.head? = some .reset
  · obtain ⟨rest, hs⟩ := List.head?_eq_some_iff.mp h
    rw [stepIn_reset e s rest hs]
    exact hm
  · exact (stepIn_contention_iff e s h).mpr (.inl hm)

/-- Settles O42: the level condition is `drivenCell` read off, and every step but a reset writes the mark in `edgeTo`. -/
theorem deviceDrivesByLevel : Obligations.DeviceDrivesByLevel := by
  unfold Obligations.DeviceDrivesByLevel
  refine ⟨drivenCell_eq_some_iff, dataLines_byDevice, ?_⟩
  intro s t hst
  rw [step_eq] at hst
  cases hst
  exact ⟨stepIn_contention_kept Config.env s, stepIn_contention_iff Config.env s⟩

/-! The sampling path (R81). -/

/-- With the device alone on the data lines and settle cycles enough, the driven cell is sampled (R81). -/
theorem dqIn_driven (e : Env) (n : Nat) (q : Seq) (d : Device) (key : Nat) (hk : drivenCell q d = some key)
    (hq : q.dqOe = false) (hs : SettleOK e) : dqIn e n q d = cellValue e n d key := by
  simp [dqIn, hk, hq, hs]

/-- Where one of the three conditions fails, a draw is sampled (R81). -/
theorem dqIn_draw (e : Env) (n : Nat) (q : Seq) (d : Device)
    (h : drivenCell q d = none ∨ q.dqOe = true ∨ ¬ SettleOK e) : dqIn e n q d = maskW e.cfg (e.draw n .sample) := by
  cases hk : drivenCell q d with
  | none => simp [dqIn, hk]
  | some key =>
    rcases h with h | hq | hs
    · simp [hk] at h
    · simp [dqIn, hk, hq]
    · simp [dqIn, hk, Nat.not_le.mp hs]

/-- Settles O43: the two cases of the sampling path. -/
theorem sampledLevels : Obligations.SampledLevels := by
  unfold Obligations.SampledLevels
  exact fun e n q d => ⟨dqIn_driven e n q d, dqIn_draw e n q d⟩

end Sys2Proof.Machine
end

section
namespace Sys2Proof

/-! The five fields of a word (R100), and the rows of the opcode table (R102) in their terms. -/

/-- The five fields side by side are the word, most significant first. -/
theorem fields_append (w : CmdWord) :
    opField w ++ zeroField w ++ rowField w ++ colField w ++ valueField w = w := by
  simp only [opField, zeroField, rowField, colField, valueField]
  rw [BitVec.extractLsb'_append_extractLsb'_eq_extractLsb' (by rfl),
    BitVec.extractLsb'_append_extractLsb'_eq_extractLsb' (by rfl),
    BitVec.extractLsb'_append_extractLsb'_eq_extractLsb' (by rfl),
    BitVec.extractLsb'_append_extractLsb'_eq_extractLsb' (by rfl)]
  exact BitVec.extractLsb'_eq_self

/-- A word is determined by its fields. -/
theorem word_eq_iff (w u : CmdWord) : w = u ↔ opField w = opField u ∧ zeroField w = zeroField u ∧
    rowField w = rowField u ∧ colField w = colField u ∧ valueField w = valueField u := by
  constructor
  · rintro rfl
    exact ⟨rfl, rfl, rfl, rfl, rfl⟩
  · rintro ⟨hop, hzero, hrow, hcol, hvalue⟩
    rw [← fields_append w, hop, hzero, hrow, hcol, hvalue, fields_append]

/-! A field under a mask of ones, with the ones as the literals that the masks of R102 leave on the fields. -/

theorem and_ones_op (x : BitVec 2) : x &&& 3#2 = x := BitVec.and_allOnes
theorem and_ones_zero (x : BitVec 6) : x &&& 63#6 = x := BitVec.and_allOnes
theorem and_ones_byte (x : Byte) : x &&& 255#8 = x := BitVec.and_allOnes

/-! A word lies in a row of the opcode table exactly when the row fixes its fields so (R102). -/

theorem initRow_iff (w : CmdWord) : w &&& 0xFFFFFFFF#32 = 0x00000000#32 ↔
    opField w = 0b00#2 ∧ zeroField w = 0#6 ∧ rowField w = 0#8 ∧ colField w = 0#8 ∧ valueField w = 0#8 := by
  rw [word_eq_iff]
  simp [opField, zeroField, rowField, colField, valueField, BitVec.extractLsb'_and, and_ones_op, and_ones_zero,
    and_ones_byte]

theorem readRow_iff (w : CmdWord) : w &&& 0xFF0000FF#32 = 0x40000000#32 ↔
    opField w = 0b01#2 ∧ zeroField w = 0#6 ∧ valueField w = 0#8 := by
  rw [word_eq_iff]
  simp [opField, zeroField, rowField, colField, valueField, BitVec.extractLsb'_and, and_ones_op, and_ones_zero,
    and_ones_byte]

theorem writeRow_iff (w : CmdWord) : w &&& 0xFF000000#32 = 0x80000000#32 ↔
    opField w = 0b10#2 ∧ zeroField w = 0#6 := by
  rw [word_eq_iff]
  simp [opField, zeroField, rowField, colField, valueField, BitVec.extractLsb'_and, and_ones_op, and_ones_zero]

/-! The decoder, one equation per row, and what a command's word is (R103). -/

theorem decode_of_initRow {w : CmdWord} (h : w &&& 0xFFFFFFFF#32 = 0x00000000#32) : decode w = .command .init :=
  if_pos h

theorem decode_of_readRow {w : CmdWord} (h : w &&& 0xFF0000FF#32 = 0x40000000#32) :
    decode w = .command (.read (rowField w) (colField w)) := by
  have hinit : w &&& 0xFFFFFFFF#32 ≠ 0x00000000#32 := by
    rw [Ne, initRow_iff, ((readRow_iff w).mp h).1]
    simp
  rw [decode, if_neg hinit, if_pos h]

theorem decode_of_writeRow {w : CmdWord} (h : w &&& 0xFF000000#32 = 0x80000000#32) :
    decode w = .command (.write (rowField w) (colField w) (valueField w)) := by
  have hinit : w &&& 0xFFFFFFFF#32 ≠ 0x00000000#32 := by
    rw [Ne, initRow_iff, ((writeRow_iff w).mp h).1]
    simp
  have hread : w &&& 0xFF0000FF#32 ≠ 0x40000000#32 := by
    rw [Ne, readRow_iff, ((writeRow_iff w).mp h).1]
    simp
  rw [decode, if_neg hinit, if_neg hread, if_pos h]

theorem decode_of_noRow {w : CmdWord} (hinit : w &&& 0xFFFFFFFF#32 ≠ 0x00000000#32)
    (hread : w &&& 0xFF0000FF#32 ≠ 0x40000000#32) (hwrite : w &&& 0xFF000000#32 ≠ 0x80000000#32) :
    decode w = .reserved (reservedKind w) := by
  rw [decode, if_neg hinit, if_neg hread, if_neg hwrite]

/-- A word is reserved exactly when it lies in no row of the opcode table. -/
theorem decode_reserved_iff_noRow (w : CmdWord) : (∃ why, decode w = .reserved why) ↔
    w &&& 0xFFFFFFFF#32 ≠ 0x00000000#32 ∧ w &&& 0xFF0000FF#32 ≠ 0x40000000#32 ∧
      w &&& 0xFF000000#32 ≠ 0x80000000#32 := by
  constructor
  · rintro ⟨why, hd⟩
    refine ⟨fun h => ?_, fun h => ?_, fun h => ?_⟩
    · simp [decode_of_initRow h] at hd
    · simp [decode_of_readRow h] at hd
    · simp [decode_of_writeRow h] at hd
  · rintro ⟨hinit, hread, hwrite⟩
    exact ⟨_, decode_of_noRow hinit hread hwrite⟩

/-- A word that decodes as a command lies in the command's row and carries its operands. -/
theorem decode_command_cases {w : CmdWord} {i : Instr} (hd : decode w = .command i) :
    (w &&& 0xFFFFFFFF#32 = 0x00000000#32 ∧ i = .init) ∨
    (w &&& 0xFF0000FF#32 = 0x40000000#32 ∧ i = .read (rowField w) (colField w)) ∨
    (w &&& 0xFF000000#32 = 0x80000000#32 ∧ i = .write (rowField w) (colField w) (valueField w)) := by
  by_cases hinit : w &&& 0xFFFFFFFF#32 = 0x00000000#32
  · rw [decode_of_initRow hinit, Decoded.command.injEq] at hd
    exact .inl ⟨hinit, hd.symm⟩
  by_cases hread : w &&& 0xFF0000FF#32 = 0x40000000#32
  · rw [decode_of_readRow hread, Decoded.command.injEq] at hd
    exact .inr (.inl ⟨hread, hd.symm⟩)
  by_cases hwrite : w &&& 0xFF000000#32 = 0x80000000#32
  · rw [decode_of_writeRow hwrite, Decoded.command.injEq] at hd
    exact .inr (.inr ⟨hwrite, hd.symm⟩)
  · simp [decode_of_noRow hinit hread hwrite] at hd

/-! The operands in the encoder's word (R103). -/

/-- A byte put into the word is read back from its place. -/
theorem extractLsb'_atField_same (v : Byte) (sh : Nat) (h : sh + 8 ≤ 32) : (atField v sh).extractLsb' sh 8 = v := by
  apply BitVec.eq_of_getLsbD_eq
  intro j hj
  have hw : sh + j < 32 := by omega
  simp [atField, hj, hw]

/-- A byte put into the word leaves every other place 0. -/
theorem extractLsb'_atField_other (v : Byte) (sh start len : Nat) (h : start + len ≤ sh ∨ sh + 8 ≤ start) :
    (atField v sh).extractLsb' start len = 0#len := by
  apply BitVec.eq_of_getLsbD_eq
  intro j hj
  have hout : start + j < sh ∨ 8 ≤ start + j - sh := by omega
  rcases hout with hlow | hhigh
  · simp [atField, hj, hlow]
  · simp [atField, hj, BitVec.getLsbD_of_ge v _ hhigh]

theorem fields_encode_read (r k : Byte) :
    rowField (encode (.read r k)) = r ∧ colField (encode (.read r k)) = k := by
  simp [rowField, colField, encode, BitVec.extractLsb'_or, extractLsb'_atField_same, extractLsb'_atField_other]

theorem fields_encode_write (r k v : Byte) :
    rowField (encode (.write r k v)) = r ∧ colField (encode (.write r k v)) = k ∧
      valueField (encode (.write r k v)) = v := by
  simp [rowField, colField, valueField, encode, BitVec.extractLsb'_or, extractLsb'_atField_same,
    extractLsb'_atField_other]

theorem decode_encode (i : Instr) : decode (encode i) = .command i := by
  cases i with
  | init => exact decode_of_initRow Laws.EncodingRow.init
  | read r k =>
    obtain ⟨hrow, hcol⟩ := fields_encode_read r k
    rw [decode_of_readRow (Laws.EncodingRow.read r k), hrow, hcol]
  | write r k v =>
    obtain ⟨hrow, hcol, hvalue⟩ := fields_encode_write r k v
    rw [decode_of_writeRow (Laws.EncodingRow.write r k v), hrow, hcol, hvalue]

/-- The row a word lies in fixes the fields that its command does not carry, so the fields of both words agree. -/
theorem encode_of_decode {w : CmdWord} {i : Instr} (hd : decode w = .command i) : encode i = w := by
  rcases decode_command_cases hd with ⟨hw, rfl⟩ | ⟨hw, rfl⟩ | ⟨hw, rfl⟩
  · calc encode .init = 0x00000000#32 := rfl
      _ = w &&& 0xFFFFFFFF#32 := hw.symm
      _ = w := BitVec.and_allOnes
  · obtain ⟨hrow, hcol⟩ := fields_encode_read (rowField w) (colField w)
    obtain ⟨hop, hzero, hvalue⟩ := (readRow_iff _).mp (Laws.EncodingRow.read (rowField w) (colField w))
    obtain ⟨hop', hzero', hvalue'⟩ := (readRow_iff w).mp hw
    exact (word_eq_iff _ _).mpr
      ⟨hop.trans hop'.symm, hzero.trans hzero'.symm, hrow, hcol, hvalue.trans hvalue'.symm⟩
  · obtain ⟨hrow, hcol, hvalue⟩ := fields_encode_write (rowField w) (colField w) (valueField w)
    obtain ⟨hop, hzero⟩ := (writeRow_iff _).mp (Laws.EncodingRow.write (rowField w) (colField w) (valueField w))
    obtain ⟨hop', hzero'⟩ := (writeRow_iff w).mp hw
    exact (word_eq_iff _ _).mpr ⟨hop.trans hop'.symm, hzero.trans hzero'.symm, hrow, hcol, hvalue⟩

theorem encode_write_eq (r k v : Byte) : encode (.write r k v) =
    0x80000000#32 ||| (r.setWidth 32 <<< 16) ||| (k.setWidth 32 <<< 8) ||| v.setWidth 32 := by
  simp [encode, atField]

/-- Settles O8: one equation per case of the decoder and the encoder; the two laws through the five fields of a word. -/
theorem decodeAndEncodeAgree : Obligations.DecodeAndEncodeAgree := by
  unfold Obligations.DecodeAndEncodeAgree
  exact ⟨fun _ => decode_of_initRow, fun _ => decode_of_readRow, fun _ => decode_of_writeRow,
    fun _ hinit hread hwrite => ⟨_, decode_of_noRow hinit hread hwrite⟩, rfl, fun _ _ => rfl, encode_write_eq,
    decode_encode, fun _ _ => encode_of_decode⟩

theorem opField_cases (w : CmdWord) :
    opField w = 0b00#2 ∨ opField w = 0b01#2 ∨ opField w = 0b10#2 ∨ opField w = 0b11#2 := by
  generalize opField w = op
  revert op
  decide

/-- The conditions of R109, by the value of the field `op`. -/
theorem decode_reserved_iff_fields (w : CmdWord) : (∃ why, decode w = .reserved why) ↔
    opField w = 0b11#2 ∨ zeroField w ≠ 0#6 ∨
      (opField w = 0b00#2 ∧ (rowField w ≠ 0#8 ∨ colField w ≠ 0#8 ∨ valueField w ≠ 0#8)) ∨
      (opField w = 0b01#2 ∧ valueField w ≠ 0#8) := by
  rw [decode_reserved_iff_noRow, Ne, initRow_iff, Ne, readRow_iff, Ne, writeRow_iff]
  rcases opField_cases w with hop | hop | hop | hop
  · simp [hop, imp_iff_not_or]
  · simp [hop, imp_iff_not_or]
  · simp [hop]
  · simp [hop]

end Sys2Proof
end

section
namespace Sys2Proof.Machine

/-! The acceptance step, outcome by outcome (R104). -/

theorem phaseReady_iff (p : Phase) : phaseReady p = true ↔ p = .uninit ∨ p = .idle := by
  cases p <;> simp [phaseReady]

theorem indexFits_iff (c : Cfg) (row col : Byte) :
    indexFits c row col = true ↔ row.toNat < 2 ^ c.rowBits ∧ col.toNat < 2 ^ c.colBits := by
  rw [indexFits, Bool.and_eq_true, decide_eq_true_eq, decide_eq_true_eq, Cfg.rows, Cfg.cols]

theorem valueFits_iff (c : Cfg) (value : Byte) : valueFits c value = true ↔ value.toNat < 2 ^ c.width.bits := by
  simp [valueFits]

theorem acceptInit_uninit {q : Seq} (h : q.phase = .uninit) :
    acceptInit q = { q with rspValid := false, phase := .iCtrl } := if_pos h

theorem acceptInit_idle {q : Seq} (h : q.phase = .idle) : acceptInit q = raiseFault .reInit q := by
  simp [acceptInit, h]

theorem acceptRead_uninit (c : Cfg) (row col : Byte) {q : Seq} (h : q.phase = .uninit) :
    acceptRead c row col q = raiseFault .notInit q := if_pos h

theorem acceptRead_idle (c : Cfg) (row col : Byte) {q : Seq} (h : q.phase = .idle) : acceptRead c row col q =
    if row.toNat < 2 ^ c.rowBits ∧ col.toNat < 2 ^ c.colBits then
      { q with rspValid := false, row := row, col := col, phase := .rRow }
    else raiseFault .operand q := by
  simp [acceptRead, h, indexFits_iff]

theorem acceptWrite_uninit (c : Cfg) (row col value : Byte) {q : Seq} (h : q.phase = .uninit) :
    acceptWrite c row col value q = raiseFault .notInit q := if_pos h

/-- A value that passes the check is recorded as it is, the mask does nothing. -/
theorem acceptWrite_idle (c : Cfg) (row col value : Byte) {q : Seq} (h : q.phase = .idle) :
    acceptWrite c row col value q =
      if row.toNat < 2 ^ c.rowBits ∧ col.toNat < 2 ^ c.colBits ∧ value.toNat < 2 ^ c.width.bits then
        { q with rspValid := false, row := row, col := col, wdata := value, phase := .wRow }
      else raiseFault .operand q := by
  by_cases hv : value.toNat < 2 ^ c.width.bits
  · simp [acceptWrite, h, indexFits_iff, valueFits_iff, hv, maskW, maskBits_of_lt _ _ hv]
  · simp [acceptWrite, h, valueFits_iff, hv]

/-- In a ready phase the clock edge alone changes no register. -/
theorem quietEdge_seq_ready (e : Env) (s : State) (h : phaseReady s.seq.phase = true) :
    (quietEdge e s).seq = s.seq := by
  rcases (phaseReady_iff _).mp h with h | h <;> simp [quietEdge, advanceSeq, h]

theorem reservedEdge_ready (e : Env) (s : State) (h : phaseReady s.seq.phase = true) :
    reservedEdge e s = edgeTo e s (raiseFault .reserved s.seq) := if_pos h

theorem reservedEdge_busy (e : Env) (s : State) (h : phaseReady s.seq.phase = false) :
    reservedEdge e s = quietEdge e s := by
  simp [reservedEdge, h]

theorem stepIn_seq_reserved (e : Env) (s : State) (word : CmdWord) (rest : List HostMove) (why : ReservedWord)
    (hs : s.host = .present word :: rest) (hd : decode word = .reserved why) (hr : phaseReady s.seq.phase = true) :
    (stepIn e s).seq = raiseFault .reserved s.seq := by
  rw [stepIn_reserved e s word rest why hs hd, reservedEdge_ready e { s with host := rest } hr, edgeTo_seq]

/-- In a phase that is not ready a word on the port makes the step of a quiet port. -/
theorem stepIn_presented_busy (e : Env) (s : State) (word : CmdWord) (rest : List HostMove)
    (hs : s.host = .present word :: rest) (hb : phaseReady s.seq.phase = false) :
    stepIn e s = quietEdge e { s with host := rest } := by
  cases hd : decode word with
  | command i => rw [stepIn_command e s word rest i hs hd, commandEdge_busy e i { s with host := rest } hb]
  | reserved why => rw [stepIn_reserved e s word rest why hs hd, reservedEdge_busy e { s with host := rest } hb]

/-- With nothing presented in a ready phase no register changes. -/
theorem stepIn_seq_quiet (e : Env) (s : State) (hr : phaseReady s.seq.phase = true)
    (hq : s.host.head? = none ∨ s.host.head? = some .idle) : (stepIn e s).seq = s.seq := by
  rcases hq with hnone | hidle
  · rw [stepIn_silent e s (List.head?_eq_none_iff.mp hnone), quietEdge_seq_ready e s hr]
  · obtain ⟨rest, hs⟩ := List.head?_eq_some_iff.mp hidle
    rw [stepIn_idle e s rest hs, quietEdge_seq_ready e { s with host := rest } hr]

/-- Settles O5: a presented word's outcome by `decode`, then by the ready phase and the command; a busy phase makes the step of a
quiet port. -/
theorem acceptanceStep : Obligations.AcceptanceStep := by
  unfold Obligations.AcceptanceStep
  refine ⟨fun e s word rest hs hr => ?_, stepIn_seq_quiet, fun e s word rest hs hb => ⟨?_, ?_⟩⟩
  · cases hd : decode word with
    | reserved why => exact stepIn_seq_reserved e s word rest why hs hd hr
    | command i =>
      rw [stepIn_command e s word rest i hs hd, commandEdge_ready e i { s with host := rest } hr, edgeTo_seq]
      rcases (phaseReady_iff _).mp hr with hp | hp
      · cases i with
        | init => simp [hp, acceptInit_uninit]
        | read r k => simp [hp, acceptRead_uninit, raiseFault, faultBits]
        | write r k v => simp [hp, acceptWrite_uninit, raiseFault, faultBits]
      · cases i with
        | init => simp [hp, acceptInit_idle, raiseFault, faultBits]
        | read r k => simp [hp, acceptRead_idle, raiseFault, faultBits]
        | write r k v => simp [hp, acceptWrite_idle, raiseFault, faultBits]
  · rw [stepIn_presented_busy e s word rest hs hb, stepIn_silent e { s with host := [] } rfl]
    rfl
  · rw [stepIn_host, hs, List.tail_cons]

/-- Settles O9: the rows of the opcode table field by field, and the one fault that a reserved word raises. -/
theorem reservedWordsExactly : Obligations.ReservedWordsExactly := by
  unfold Obligations.ReservedWordsExactly
  exact ⟨decode_reserved_iff_fields, fun s word rest why hs hd hr =>
    ⟨_, step_eq s, stepIn_seq_reserved Config.env s word rest why hs hd hr⟩⟩

end Sys2Proof.Machine
end

section
namespace Sys2Proof.Machine

/-! How the sequencer comes to be in `UNINIT`: by reset, or by staying there (R24). -/

theorem initAction_phase_ne_uninit {q : Seq} (h : q.phase ≠ .uninit) : (initAction q).phase ≠ .uninit := by
  unfold initAction
  split <;> simp [h]

theorem readAction_phase_ne_uninit (c : Cfg) (dq : Byte) {q : Seq} (h : q.phase ≠ .uninit) :
    (readAction c dq q).phase ≠ .uninit := by
  unfold readAction
  split <;> simp [h, ite_eq_iff]

theorem writeAction_phase_ne_uninit (c : Cfg) {q : Seq} (h : q.phase ≠ .uninit) :
    (writeAction c q).phase ≠ .uninit := by
  unfold writeAction
  split <;> simp [h]

/-- All that a phase's own action can be. -/
theorem advanceSeq_cases (c : Cfg) (dq : Byte) (q : Seq) : advanceSeq c dq q = q ∨
    advanceSeq c dq q = initAction q ∨ advanceSeq c dq q = writeAction c q ∨ advanceSeq c dq q = readAction c dq q := by
  unfold advanceSeq
  split <;> simp

theorem advanceSeq_phase_ne_uninit (c : Cfg) (dq : Byte) {q : Seq} (h : q.phase ≠ .uninit) :
    (advanceSeq c dq q).phase ≠ .uninit := by
  rcases advanceSeq_cases c dq q with ha | ha | ha | ha <;> rw [ha]
  · exact h
  · exact initAction_phase_ne_uninit h
  · exact writeAction_phase_ne_uninit c h
  · exact readAction_phase_ne_uninit c dq h

theorem acceptInit_phase_ne_uninit (q : Seq) : (acceptInit q).phase ≠ .uninit := by
  unfold acceptInit
  split <;> simp

theorem acceptRead_phase_ne_uninit (c : Cfg) (row col : Byte) (q : Seq) :
    (acceptRead c row col q).phase ≠ .uninit := by
  unfold acceptRead
  split
  · simp
  · split <;> simp

theorem acceptWrite_phase_ne_uninit (c : Cfg) (row col value : Byte) (q : Seq) :
    (acceptWrite c row col value q).phase ≠ .uninit := by
  unfold acceptWrite
  split
  · simp
  · split <;> simp

/-- A step that ends in `UNINIT` is a reset, or a quiet step there, which changes no register. -/
theorem stepIn_seq_of_uninit (e : Env) (s : State) (h : (stepIn e s).seq.phase = .uninit) :
    (stepIn e s).seq = Seq.reset ∨ (stepIn e s).seq = s.seq := by
  rcases stepIn_cases e s with hs | hs | ⟨-, q, hs, hq⟩
  · exact .inl (by rw [hs, resetEdge_seq])
  · right
    rw [hs] at h ⊢
    by_cases hp : s.seq.phase = .uninit
    · exact quietEdge_seq_ready e { s with host := s.host.tail } ((phaseReady_iff _).mpr (.inl hp))
    · exact absurd h (advanceSeq_phase_ne_uninit _ _ hp)
  · rw [hs, edgeTo_seq] at h
    rcases hq with rfl | rfl | ⟨row, col, rfl⟩ | ⟨row, col, value, rfl⟩
    · simp at h
    · exact absurd h (acceptInit_phase_ne_uninit _)
    · exact absurd h (acceptRead_phase_ne_uninit _ _ _ _)
    · exact absurd h (acceptWrite_phase_ne_uninit _ _ _ _ _)

/-- A run that starts with the reset values, if in `UNINIT`, has them whenever it is in `UNINIT`. -/
theorem runIn_seq_of_uninit (e : Env) (n : Nat) (s : State) (hs : s.seq.phase = .uninit → s.seq = Seq.reset)
    (h : (runIn e n s).seq.phase = .uninit) : (runIn e n s).seq = Seq.reset := by
  induction n generalizing s with
  | zero => exact hs h
  | succ n ih =>
    refine ih (stepIn e s) (fun hp => ?_) h
    rcases stepIn_seq_of_uninit e s hp with hreset | hsame
    · exact hreset
    · rw [hsame] at hp ⊢
      exact hs hp

/-- In `UNINIT` the control lines float, in every state a claim starts from (R29, R39). -/
theorem ctrlOe_of_uninit {e : Env} {s : State} (hs : InRun e s) (hp : s.seq.phase = .uninit) :
    s.seq.ctrlOe = false := by
  rcases hs with ⟨-, s₀, n, hfrom, rfl⟩ | hinv
  · rw [runIn_seq_of_uninit e n s₀ (fun _ => hfrom.seq) hp]
    rfl
  · have henables := hinv.seq.enables (by simp [hp])
    rw [hp] at henables
    exact congrArg Prod.fst henables

/-! The four edges of INIT (R130 to R134). -/

/-- A command held on the port makes its edge again and again. -/
theorem execFor_eq_iterate (n : Nat) (i : Instr) (s : State) :
    execFor n i s = .next ((commandEdge Config.env i)^[n] s) := by
  induction n generalizing s with
  | zero => rfl
  | succ n ih => simp only [execFor, exec_eq, ih, Function.iterate_succ_apply]

theorem initAction_iCtrl {q : Seq} (h : q.phase = .iCtrl) : initAction q =
    { q with rasN := true, casN := true, weN := true, ctrlOe := true, phase := .iAddr } := by
  simp [initAction, h]

theorem initAction_iAddr {q : Seq} (h : q.phase = .iAddr) :
    initAction q = { q with addrOut := 0#8, addrOe := true, phase := .iData } := by
  simp [initAction, h]

theorem initAction_iData {q : Seq} (h : q.phase = .iData) :
    initAction q = { q with dqOe := false, inited := true, phase := .idle } := by
  simp [initAction, h]

theorem phaseOfInit_iff (p : Phase) : phaseOfInit p = true ↔ p = .iCtrl ∨ p = .iAddr ∨ p = .iData := by
  cases p <;> simp [phaseOfInit]

theorem commandEdge_init_uninit (e : Env) (s : State) (h : s.seq.phase = .uninit) :
    commandEdge e .init s = edgeTo e s { s.seq with rspValid := false, phase := .iCtrl } := by
  rw [commandEdge_ready e .init s ((phaseReady_iff _).mpr (.inl h)), acceptInit_uninit h]

/-- In an `I_*` phase the edge makes the phase's pin action, whatever is on the port. -/
theorem commandEdge_phaseOfInit (e : Env) (i : Instr) (s : State) (h : phaseOfInit s.seq.phase = true) :
    commandEdge e i s = edgeTo e s (initAction s.seq) := by
  rcases (phaseOfInit_iff _).mp h with hp | hp | hp <;>
    rw [commandEdge_busy e i s (by rw [hp]; rfl), quietEdge, advanceSeq, hp]

/-- With the control lines driven and the three strobes high after the step, no cell is stored to or forgotten (R77 to R79, R90). -/
theorem react_mem_strobesHigh (e : Env) (n : Nat) (b a : Seq) (d : Device) (hc : a.ctrlOe = true)
    (hr : a.rasN = true) (hk : a.casN = true) (hw : a.weN = true) : (react e n b a d).mem = d.mem := by
  simp [react, storeCell, disturb, oddStrobe, hc, hr, hk, hw]

/-- A cell that is not listed holds a draw (R36, R41). -/
theorem memValue_of_mem_nil (e : Env) (n : Nat) (d : Device) (key : Nat) (h : d.mem = []) :
    memValue e n d key = maskW e.cfg (e.draw n (.cell key)) := by
  simp [memValue, Memory.stored, Table.find, h]

/-- The acceptance of INIT in `UNINIT`, with the control lines still floating: every cell is left a draw (R76). -/
theorem commandEdge_init_floating (e : Env) (s : State) (hp : s.seq.phase = .uninit) (hfloat : s.seq.ctrlOe = false) :
    (commandEdge e .init s).seq = { s.seq with rspValid := false, phase := .iCtrl } ∧
      (commandEdge e .init s).dev.mem = [] := by
  rw [commandEdge_init_uninit e s hp]
  refine ⟨rfl, ?_⟩
  rw [edgeTo_dev, react_float, floatDevice_mem]
  exact hfloat

/-- A pin action of INIT that leaves the control lines driven and the three strobes high keeps every cell (R62). -/
theorem commandEdge_initAction (e : Env) (i : Instr) (s : State) (q : Seq) (h : phaseOfInit s.seq.phase = true)
    (hq : initAction s.seq = q) (hc : q.ctrlOe = true) (hr : q.rasN = true) (hk : q.casN = true) (hw : q.weN = true) :
    (commandEdge e i s).seq = q ∧ (commandEdge e i s).dev.mem = s.dev.mem := by
  rw [commandEdge_phaseOfInit e i s h, hq, edgeTo_dev]
  exact ⟨rfl, react_mem_strobesHigh _ _ _ _ _ hc hr hk hw⟩

/-- INIT held on the port for four edges in `UNINIT`: the acceptance empties the list of stored cells, and the three edges that
follow raise the strobes or leave them high. -/
theorem init_four_edges (e : Env) (s : State) (hp : s.seq.phase = .uninit) (hfloat : s.seq.ctrlOe = false) :
    ((commandEdge e .init)^[4] s).seq = { s.seq with
      phase := .idle, inited := true, ctrlOe := true, rasN := true, casN := true, weN := true
      addrOe := true, addrOut := 0#8, dqOe := false, rspValid := false } ∧
    ((commandEdge e .init)^[4] s).dev.mem = [] := by
  simp only [Function.iterate_succ_apply, Function.iterate_zero_apply]
  obtain ⟨hseq, hmem⟩ := commandEdge_init_floating e s hp hfloat
  generalize commandEdge e .init s = accepted at hseq hmem ⊢
  obtain ⟨hseq₁, hmem₁⟩ := commandEdge_initAction e .init accepted _ (by rw [hseq]; rfl)
    (by rw [hseq, initAction_iCtrl rfl]) rfl rfl rfl rfl
  generalize commandEdge e .init accepted = driven at hseq₁ hmem₁ ⊢
  obtain ⟨hseq₂, hmem₂⟩ := commandEdge_initAction e .init driven _ (by rw [hseq₁]; rfl)
    (by rw [hseq₁, initAction_iAddr rfl]) rfl rfl rfl rfl
  generalize commandEdge e .init driven = addressed at hseq₂ hmem₂ ⊢
  obtain ⟨hseq₃, hmem₃⟩ := commandEdge_initAction e .init addressed _ (by rw [hseq₂]; rfl)
    (by rw [hseq₂, initAction_iData rfl]) rfl rfl rfl rfl
  exact ⟨hseq₃, by rw [hmem₃, hmem₂, hmem₁, hmem]⟩

/-- Settles O20: the control lines still float in `UNINIT`, and then the four edges of INIT give the registers and an empty list of
stored cells. -/
theorem initCompletes : Obligations.InitCompletes := by
  unfold Obligations.InitCompletes
  intro s hs hp
  obtain ⟨hseq, hmem⟩ := init_four_edges Config.env s hp (ctrlOe_of_uninit hs hp)
  exact ⟨_, execFor_eq_iterate 4 .init s, hseq, fun n key => memValue_of_mem_nil _ n _ key hmem⟩

end Sys2Proof.Machine
end

section
namespace Sys2Proof.Machine

/-! The edges of WRITE, phase by phase (R140 to R150). -/

theorem not_phaseReady_of_phaseOfWrite {p : Phase} (h : phaseOfWrite p = true) : phaseReady p = false := by
  revert h
  cases p <;> decide

theorem advanceSeq_of_phaseOfWrite (c : Cfg) (dq : Byte) {q : Seq} (h : phaseOfWrite q.phase = true) :
    advanceSeq c dq q = writeAction c q := by
  unfold advanceSeq
  split <;> simp_all [phaseOfWrite]

/-- In a `W_*` phase the edge makes the phase's pin action, whatever is on the port. -/
theorem commandEdge_phaseOfWrite (e : Env) (i : Instr) (s : State) (h : phaseOfWrite s.seq.phase = true) :
    commandEdge e i s = edgeTo e s (writeAction e.cfg s.seq) := by
  rw [commandEdge_busy e i s (not_phaseReady_of_phaseOfWrite h), quietEdge, advanceSeq_of_phaseOfWrite _ _ h]

theorem writeAction_wRow (c : Cfg) {q : Seq} (h : q.phase = .wRow) :
    writeAction c q = { q with addrOut := addrToLines c q.row, phase := .wRas } := by
  simp [writeAction, h, presentIndex]

theorem writeAction_wRas (c : Cfg) {q : Seq} (h : q.phase = .wRas) :
    writeAction c q = { q with rasN := false, phase := .wData } := by
  simp [writeAction, h, assertRas]

theorem writeAction_wData (c : Cfg) {q : Seq} (h : q.phase = .wData) :
    writeAction c q = { q with dqOut := q.wdata, phase := .wDrive } := by
  simp [writeAction, h]

theorem writeAction_wDrive (c : Cfg) {q : Seq} (h : q.phase = .wDrive) :
    writeAction c q = { q with dqOe := true, phase := .wWe } := by
  simp [writeAction, h]

theorem writeAction_wWe (c : Cfg) {q : Seq} (h : q.phase = .wWe) :
    writeAction c q = { q with weN := false, phase := .wCol } := by
  simp [writeAction, h]

theorem writeAction_wCol (c : Cfg) {q : Seq} (h : q.phase = .wCol) :
    writeAction c q = { q with addrOut := addrToLines c q.col, phase := .wCas } := by
  simp [writeAction, h, presentIndex]

theorem writeAction_wCas (c : Cfg) {q : Seq} (h : q.phase = .wCas) :
    writeAction c q = { q with casN := false, phase := .wX1 } := by
  simp [writeAction, h, assertCas]

theorem writeAction_wX1 (c : Cfg) {q : Seq} (h : q.phase = .wX1) :
    writeAction c q = { doRelease (releaseOrder c).1 q with phase := .wX2 } := by
  simp [writeAction, h]

theorem writeAction_wX2 (c : Cfg) {q : Seq} (h : q.phase = .wX2) :
    writeAction c q = { doRelease (releaseOrder c).2.1 q with phase := .wX3 } := by
  simp [writeAction, h]

theorem writeAction_wX3 (c : Cfg) {q : Seq} (h : q.phase = .wX3) :
    writeAction c q = { doRelease (releaseOrder c).2.2 q with phase := .idle } := by
  simp [writeAction, h]

/-- The registers after an edge in a `W_*` phase are those of the phase's pin action. -/
theorem commandEdge_seq_phaseOfWrite (e : Env) (i : Instr) (s : State) (h : phaseOfWrite s.seq.phase = true) :
    (commandEdge e i s).seq = writeAction e.cfg s.seq := by
  rw [commandEdge_phaseOfWrite e i s h, edgeTo_seq]

/-- Settles O24: each release phase makes its own entry of the configured order, and the four orders are the four values of
the two fields. -/
theorem releaseActionsByOrder : Obligations.ReleaseActionsByOrder := by
  unfold Obligations.ReleaseActionsByOrder
  intro e s r k v
  refine ⟨fun hp => ?_, fun hp => ?_, fun hp => ?_⟩
  all_goals rw [commandEdge_seq_phaseOfWrite e _ s (by rw [hp]; rfl)]
  · rw [writeAction_wX1 e.cfg hp, releaseOrder]
    cases e.cfg.writeRelease <;> cases e.cfg.weRelease <;> rfl
  · rw [writeAction_wX2 e.cfg hp, releaseOrder]
    cases e.cfg.writeRelease <;> cases e.cfg.weRelease <;> rfl
  · rw [writeAction_wX3 e.cfg hp, releaseOrder]
    cases e.cfg.writeRelease <;> cases e.cfg.weRelease <;> rfl

end Sys2Proof.Machine
end

section
namespace Sys2Proof.Machine

/-! The pin registers and the drive enables follow the phase, in every state that a claim starts from (R39, R138, R152). -/

/-- Outside `FAULT` the four lines and the three enables are those the phase starts from. -/
def PinsFollowPhase (c : Cfg) (q : Seq) : Prop :=
  q.phase ≠ .fault → pinsOf q = phasePins c q.phase ∧ enablesOf q = phaseEnables q.phase

/-- In `FAULT` nothing is asked of the registers. -/
theorem raiseFault_pinsFollowPhase (c : Cfg) (f : Fault) (q : Seq) : PinsFollowPhase c (raiseFault f q) :=
  fun h => absurd (raiseFault_phase f q) h

theorem initAction_pinsFollowPhase {c : Cfg} {q : Seq} (h : PinsFollowPhase c q) :
    PinsFollowPhase c (initAction q) := by
  unfold initAction
  split
  case h_4 => exact h
  all_goals simp_all [PinsFollowPhase, pinsOf, enablesOf, phasePins, phaseEnables, idlePins]

theorem readAction_pinsFollowPhase {c : Cfg} (dq : Byte) {q : Seq} (h : PinsFollowPhase c q) :
    PinsFollowPhase c (readAction c dq q) := by
  have settle_or_sample {p : Prop} [Decidable p] :
      phasePins c (if p then .rSample else .rSettle) = phasePins c .rSettle ∧
        phaseEnables (if p then .rSample else .rSettle) = phaseEnables .rSettle := by
    split <;> exact ⟨rfl, rfl⟩
  unfold readAction
  split
  case h_8 => exact h
  all_goals simp_all [PinsFollowPhase, pinsOf, enablesOf, phasePins, phaseEnables, idlePins]

/-- The release phases by the configured order (R152), the others one by one. -/
theorem writeAction_pinsFollowPhase {c : Cfg} {q : Seq} (h : PinsFollowPhase c q) :
    PinsFollowPhase c (writeAction c q) := by
  unfold writeAction
  split
  case h_11 => exact h
  case h_8 | h_9 | h_10 =>
    cases hw : c.writeRelease <;> cases he : c.weRelease <;>
      simp_all [PinsFollowPhase, pinsOf, enablesOf, phasePins, phaseEnables, idlePins, releaseOrder, doRelease]
  all_goals simp_all [PinsFollowPhase, pinsOf, enablesOf, phasePins, phaseEnables, idlePins]

theorem advanceSeq_pinsFollowPhase {c : Cfg} (dq : Byte) {q : Seq} (h : PinsFollowPhase c q) :
    PinsFollowPhase c (advanceSeq c dq q) := by
  rcases advanceSeq_cases c dq q with ha | ha | ha | ha <;> rw [ha]
  · exact h
  · exact initAction_pinsFollowPhase h
  · exact writeAction_pinsFollowPhase h
  · exact readAction_pinsFollowPhase dq h

/-- INIT is accepted from the levels of `UNINIT`, with which `I_CTRL` starts. -/
theorem acceptInit_pinsFollowPhase {c : Cfg} {q : Seq} (h : PinsFollowPhase c q) :
    PinsFollowPhase c (acceptInit q) := by
  unfold acceptInit
  split
  · simp_all [PinsFollowPhase, pinsOf, enablesOf, phasePins, phaseEnables]
  · exact raiseFault_pinsFollowPhase c _ q

/-- READ is accepted from the levels of `IDLE`, with which `R_ROW` starts. -/
theorem acceptRead_pinsFollowPhase {c : Cfg} (row col : Byte) {q : Seq} (hp : q.phase = .uninit ∨ q.phase = .idle)
    (h : PinsFollowPhase c q) : PinsFollowPhase c (acceptRead c row col q) := by
  rcases hp with hp | hp
  · rw [acceptRead_uninit c row col hp]
    exact raiseFault_pinsFollowPhase c _ q
  · rw [acceptRead_idle c row col hp]
    split
    · simp_all [PinsFollowPhase, pinsOf, enablesOf, phasePins, phaseEnables]
    · exact raiseFault_pinsFollowPhase c _ q

/-- WRITE is accepted from the levels of `IDLE`, with which `W_ROW` starts. -/
theorem acceptWrite_pinsFollowPhase {c : Cfg} (row col value : Byte) {q : Seq}
    (hp : q.phase = .uninit ∨ q.phase = .idle) (h : PinsFollowPhase c q) :
    PinsFollowPhase c (acceptWrite c row col value q) := by
  rcases hp with hp | hp
  · rw [acceptWrite_uninit c row col value hp]
    exact raiseFault_pinsFollowPhase c _ q
  · rw [acceptWrite_idle c row col value hp]
    split
    · simp_all [PinsFollowPhase, pinsOf, enablesOf, phasePins, phaseEnables]
    · exact raiseFault_pinsFollowPhase c _ q

theorem reset_pinsFollowPhase (c : Cfg) : PinsFollowPhase c Seq.reset := fun _ => ⟨rfl, rfl⟩

theorem stepIn_pinsFollowPhase (e : Env) (s : State) (h : PinsFollowPhase e.cfg s.seq) :
    PinsFollowPhase e.cfg (stepIn e s).seq := by
  rcases stepIn_cases e s with hs | hs | ⟨hr, q, hs, hq⟩ <;> rw [hs]
  · exact reset_pinsFollowPhase e.cfg
  · exact advanceSeq_pinsFollowPhase _ h
  · rw [edgeTo_seq]
    have hp := (phaseReady_iff _).mp hr
    rcases hq with rfl | rfl | ⟨row, col, rfl⟩ | ⟨row, col, value, rfl⟩
    · exact raiseFault_pinsFollowPhase _ _ _
    · exact acceptInit_pinsFollowPhase h
    · exact acceptRead_pinsFollowPhase row col hp h
    · exact acceptWrite_pinsFollowPhase row col value hp h

theorem runIn_pinsFollowPhase (e : Env) (n : Nat) (s : State) (h : PinsFollowPhase e.cfg s.seq) :
    PinsFollowPhase e.cfg (runIn e n s).seq := by
  induction n generalizing s with
  | zero => exact h
  | succ n ih => exact ih (stepIn e s) (stepIn_pinsFollowPhase e s h)

theorem pinsFollowPhase_of_inRun {e : Env} {s : State} (hs : InRun e s) : PinsFollowPhase e.cfg s.seq := by
  rcases hs with ⟨-, s₀, n, hfrom, rfl⟩ | hinv
  · refine runIn_pinsFollowPhase e n s₀ ?_
    rw [hfrom.seq]
    exact reset_pinsFollowPhase e.cfg
  · exact fun hp => ⟨hinv.seq.pins hp, hinv.seq.enables hp⟩

/-! The device over the eleven edges of WRITE (R77 to R79, R142, R147, R148). -/

@[simp] theorem ageDevice_iterate_mem (n : Nat) (d : Device) : (ageDevice^[n] d).mem = d.mem := by
  induction n generalizing d with
  | zero => rfl
  | succ n ih => rw [Function.iterate_succ_apply, ih, ageDevice_mem]

/-- After `n` edges that only age the device every listed cell is `n` edges older (R37). -/
theorem find_ageDevice_iterate (n : Nat) (d : Device) (key : Nat) :
    Table.find (ageDevice^[n] d).ages key = (Table.find d.ages key).map (· + n) := by
  induction n with
  | zero => simp
  | succ n ih =>
    rw [Function.iterate_succ_apply', ageDevice_ages, find_ageAll, ih, Option.map_map]
    rfl

/-- The acceptance of a legal WRITE latches its operands and lets the device only grow older (R104, R106). -/
theorem commandEdge_write_idle (e : Env) (s : State) (r k v : Byte) (hp : s.seq.phase = .idle)
    (hfit : (Instr.write r k v).WellFormed e.cfg) (hc : s.seq.ctrlOe = true) :
    (commandEdge e (.write r k v) s).seq =
        { s.seq with rspValid := false, row := r, col := k, wdata := v, phase := .wRow } ∧
      (commandEdge e (.write r k v) s).dev = ageDevice s.dev := by
  have haccept := (acceptWrite_idle e.cfg r k v hp).trans (if_pos hfit)
  rw [commandEdge_ready e _ s ((phaseReady_iff _).mpr (.inr hp)), edgeTo_seq, edgeTo_dev]
  dsimp only
  rw [haccept]
  exact ⟨rfl, react_still _ _ _ _ _ hc rfl rfl rfl⟩

/-- The phases of WRITE before the release that move no strobe. -/
def dataSide : Phase → Bool
  | .wRow => true
  | .wData => true
  | .wDrive => true
  | .wWe => true
  | .wCol => true
  | _ => false

theorem phaseOfWrite_of_dataSide {p : Phase} (h : dataSide p = true) : phaseOfWrite p = true := by
  revert h
  cases p <;> decide

theorem writeAction_dataSide (c : Cfg) {q : Seq} (h : dataSide q.phase = true) :
    (writeAction c q).rasN = q.rasN ∧ (writeAction c q).casN = q.casN ∧ (writeAction c q).ctrlOe = q.ctrlOe := by
  unfold writeAction
  split <;> simp_all [dataSide]

/-- While no strobe moves and CAS is high, the edges of WRITE make the pin actions and let the device only grow older. -/
theorem write_edges_dataSide (e : Env) (i : Instr) (n : Nat) (s : State)
    (h : ∀ m < n, dataSide ((writeAction e.cfg)^[m] s.seq).phase = true) (hc : s.seq.ctrlOe = true)
    (hk : s.seq.casN = true) :
    ((commandEdge e i)^[n] s).seq = (writeAction e.cfg)^[n] s.seq ∧
      ((commandEdge e i)^[n] s).dev = ageDevice^[n] s.dev := by
  induction n generalizing s with
  | zero => exact ⟨rfl, rfl⟩
  | succ n ih =>
    have hnow : dataSide s.seq.phase = true := h 0 (Nat.succ_pos n)
    obtain ⟨hr', hk', hc'⟩ := writeAction_dataSide e.cfg hnow
    simp only [Function.iterate_succ_apply]
    have hedge := commandEdge_phaseOfWrite e i s (phaseOfWrite_of_dataSide hnow)
    have hseq : (commandEdge e i s).seq = writeAction e.cfg s.seq := by rw [hedge, edgeTo_seq]
    have hdev : (commandEdge e i s).dev = ageDevice s.dev := by
      rw [hedge, edgeTo_dev, react_weOutsideCas _ _ _ _ _ (hc'.trans hc) hr' hk' hk]
    rw [← hseq, ← hdev]
    exact ih _ (fun m hm => by rw [hseq]; exact h (m + 1) (Nat.succ_lt_succ hm)) (by rw [hseq, hc', hc])
      (by rw [hseq, hk', hk])

/-- `W_RAS` latches the row on the address lines (R77, R142). -/
theorem commandEdge_wRas (e : Env) (i : Instr) (s : State) (hp : s.seq.phase = .wRas) (hc : s.seq.ctrlOe = true)
    (ho : s.seq.addrOe = true) (hr : s.seq.rasN = true) (hk : s.seq.casN = true) :
    (commandEdge e i s).seq = { s.seq with rasN := false, phase := .wData } ∧
      (commandEdge e i s).dev = ageDevice { s.dev with rowL := some (rowOfLines e.cfg s.seq.addrOut) } := by
  rw [commandEdge_phaseOfWrite e i s (by rw [hp]; rfl), writeAction_wRas e.cfg hp]
  simp [react_rasFall, hc, ho, hr, hk]

/-- `W_CAS` latches the column on the address lines and stores the driven value in the open cell (R78, R79, R147). -/
theorem commandEdge_wCas (e : Env) (i : Instr) (s : State) (r : Byte) (hp : s.seq.phase = .wCas)
    (hc : s.seq.ctrlOe = true) (ho : s.seq.addrOe = true)
    (hpins : pinsOf s.seq = { ras := false, cas := true, we := false, dq := true }) (hrow : s.dev.rowL = some r) :
    (commandEdge e i s).seq = { s.seq with casN := false, phase := .wX1 } ∧
      (commandEdge e i s).dev = storeAt (cellKey r (colOfLines e.cfg s.seq.addrOut)) s.seq.dqOut
        (ageDevice { s.dev with colL := some (colOfLines e.cfg s.seq.addrOut) }) := by
  rw [commandEdge_phaseOfWrite e i s (by rw [hp]; rfl), writeAction_wCas e.cfg hp]
  obtain ⟨hr, hk, hw, hd⟩ := Pins.mk.inj hpins
  simp [react_casFallWrite _ _ _ _ _ r, storedValue, hc, ho, hd, hr, hk, hw, hrow]

/-- What a release action does to the latches: the strobes empty both (R77, R78, R148). -/
def unlatch (a : ReleaseAction) (d : Device) : Device :=
  match a with
  | .strobes => { d with rowL := none, colL := none }
  | .data => d
  | .we => d

/-- A release action lets the device grow older and empties the latches where it is the strobes' (R148). -/
theorem react_doRelease (e : Env) (n : Nat) (a : ReleaseAction) (p : Phase) (q : Seq) (d : Device)
    (hc : q.ctrlOe = true) (hlow : a = .strobes → q.rasN = false ∧ q.casN = false) :
    react e n q { doRelease a q with phase := p } d = ageDevice (unlatch a d) := by
  cases a with
  | strobes => exact react_release _ _ _ _ _ hc (hlow rfl).1 (hlow rfl).2 rfl rfl
  | data => exact react_still _ _ _ _ _ hc rfl rfl rfl
  | we => exact react_weHigh _ _ _ _ _ hc rfl rfl rfl

/-- The edge of a release phase (R148). -/
theorem commandEdge_release (e : Env) (i : Instr) (s : State) (a : ReleaseAction) (p : Phase)
    (h : phaseOfWrite s.seq.phase = true) (ha : writeAction e.cfg s.seq = { doRelease a s.seq with phase := p })
    (hc : s.seq.ctrlOe = true) (hlow : a = .strobes → s.seq.rasN = false ∧ s.seq.casN = false) :
    (commandEdge e i s).seq = { doRelease a s.seq with phase := p } ∧
      (commandEdge e i s).dev = ageDevice (unlatch a s.dev) := by
  rw [commandEdge_phaseOfWrite e i s h, ha, edgeTo_seq, edgeTo_dev, react_doRelease e _ a p _ _ hc hlow]
  exact ⟨rfl, rfl⟩

/-- Each release action is made once (R148). -/
theorem releaseOrder_distinct (c : Cfg) : (releaseOrder c).1 ≠ (releaseOrder c).2.1 ∧
    (releaseOrder c).1 ≠ (releaseOrder c).2.2 ∧ (releaseOrder c).2.1 ≠ (releaseOrder c).2.2 := by
  unfold releaseOrder
  split <;> decide

/-- The three release actions in any of the four orders raise the strobes and WE and release the data lines (R150). -/
theorem doRelease_releaseOrder (c : Cfg) (q : Seq) :
    ({ doRelease (releaseOrder c).2.2 { doRelease (releaseOrder c).2.1 { doRelease (releaseOrder c).1 q with
        phase := .wX2 } with phase := .wX3 } with phase := .idle } : Seq) =
      { q with rasN := true, casN := true, weN := true, dqOe := false, phase := .idle } := by
  unfold releaseOrder
  split <;> rfl

theorem unlatch_releaseOrder (c : Cfg) (d : Device) :
    ageDevice (unlatch (releaseOrder c).2.2 (ageDevice (unlatch (releaseOrder c).2.1 (ageDevice
      (unlatch (releaseOrder c).1 d))))) = { ageDevice^[3] d with rowL := none, colL := none } := by
  unfold releaseOrder
  split <;> rfl

/-- A release action other than the strobes' leaves the strobes alone. -/
theorem doRelease_strobes {a : ReleaseAction} (h : a ≠ .strobes) (q : Seq) :
    (doRelease a q).rasN = q.rasN ∧ (doRelease a q).casN = q.casN := by
  cases a with
  | strobes => exact absurd rfl h
  | data => exact ⟨rfl, rfl⟩
  | we => exact ⟨rfl, rfl⟩

@[simp] theorem doRelease_ctrlOe (a : ReleaseAction) (q : Seq) : (doRelease a q).ctrlOe = q.ctrlOe := by
  cases a <;> rfl

/-- The three release edges: the strobes are still low when they are released, for each action comes once. -/
theorem write_release_edges (e : Env) (i : Instr) (s : State) (hp : s.seq.phase = .wX1) (hc : s.seq.ctrlOe = true)
    (hr : s.seq.rasN = false) (hk : s.seq.casN = false) :
    ((commandEdge e i)^[3] s).seq =
        { s.seq with rasN := true, casN := true, weN := true, dqOe := false, phase := .idle } ∧
      ((commandEdge e i)^[3] s).dev = { ageDevice^[3] s.dev with rowL := none, colL := none } := by
  obtain ⟨hdistinct₁₂, hdistinct₁₃, hdistinct₂₃⟩ := releaseOrder_distinct e.cfg
  rw [← doRelease_releaseOrder e.cfg, ← unlatch_releaseOrder e.cfg]
  simp only [Function.iterate_succ_apply, Function.iterate_zero_apply]
  obtain ⟨hseq₁, hdev₁⟩ := commandEdge_release e i s _ _ (by rw [hp]; rfl) (writeAction_wX1 e.cfg hp) hc
    (fun _ => ⟨hr, hk⟩)
  generalize commandEdge e i s = first at hseq₁ hdev₁ ⊢
  have hlow₁ (h : (releaseOrder e.cfg).1 ≠ .strobes) : first.seq.rasN = false ∧ first.seq.casN = false := by
    simp [hseq₁, doRelease_strobes h, hr, hk]
  have hp₁ : first.seq.phase = .wX2 := by rw [hseq₁]
  obtain ⟨hseq₂, hdev₂⟩ := commandEdge_release e i first _ _ (by rw [hp₁]; rfl) (writeAction_wX2 e.cfg hp₁)
    (by simp [hseq₁, hc]) (fun h => hlow₁ (h ▸ hdistinct₁₂))
  generalize commandEdge e i first = second at hseq₂ hdev₂ ⊢
  have hp₂ : second.seq.phase = .wX3 := by rw [hseq₂]
  have hlow₂ (h : (releaseOrder e.cfg).2.2 = .strobes) : second.seq.rasN = false ∧ second.seq.casN = false := by
    simp [hseq₂, doRelease_strobes (h ▸ hdistinct₂₃), hlow₁ (h ▸ hdistinct₁₃)]
  obtain ⟨hseq₃, hdev₃⟩ := commandEdge_release e i second _ _ (by rw [hp₂]; rfl) (writeAction_wX3 e.cfg hp₂)
    (by simp [hseq₂, hseq₁, hc]) hlow₂
  rw [hseq₃, hseq₂, hseq₁, hdev₃, hdev₂, hdev₁]
  exact ⟨rfl, rfl⟩

/-- WRITE held on the port for seven edges in `IDLE`, up to the phase `W_CAS`: the row is latched, the column and the value are on
the lines, no cell is touched (R140 to R146). -/
theorem write_seven_edges (e : Env) (s : State) (r k v : Byte) (hv : e.cfg.Valid) (hp : s.seq.phase = .idle)
    (hfit : (Instr.write r k v).WellFormed e.cfg) (hctrl : s.seq.ctrlOe = true) (haddr : s.seq.addrOe = true)
    (hras : s.seq.rasN = true) (hcas : s.seq.casN = true) :
    ((commandEdge e (.write r k v))^[7] s).seq = { s.seq with
      row := r, col := k, wdata := v, rspValid := false, dqOut := v, addrOut := addrToLines e.cfg k
      rasN := false, weN := false, dqOe := true, phase := .wCas } ∧
    ((commandEdge e (.write r k v))^[7] s).dev = { ageDevice^[7] s.dev with rowL := some r } := by
  obtain ⟨hseq, hdev⟩ := commandEdge_write_idle e s r k v hp hfit hctrl
  simp only [Function.iterate_succ_apply _ 6, Function.iterate_succ_apply _ 5, Function.iterate_succ_apply _ 4]
  generalize commandEdge e (.write r k v) s = accepted at hseq hdev ⊢
  obtain ⟨hseq₁, hdev₁⟩ := write_edges_dataSide e (.write r k v) 1 accepted (by simp [hseq, dataSide])
    (by simp [hseq, hctrl]) (by simp [hseq, hcas])
  rw [Function.iterate_one, Function.iterate_one, writeAction_wRow e.cfg (by rw [hseq]), hseq] at hseq₁
  rw [Function.iterate_one, Function.iterate_one, hdev] at hdev₁
  generalize commandEdge e (.write r k v) accepted = rowShown at hseq₁ hdev₁ ⊢
  obtain ⟨hseq₂, hdev₂⟩ := commandEdge_wRas e (.write r k v) rowShown (by rw [hseq₁]) (by simp [hseq₁, hctrl])
    (by simp [hseq₁, haddr]) (by simp [hseq₁, hras]) (by simp [hseq₁, hcas])
  simp only [hseq₁, hdev₁, rowOfLines_addrToLines e.cfg r hv hfit.1] at hseq₂ hdev₂
  generalize commandEdge e (.write r k v) rowShown = rowOpen at hseq₂ hdev₂ ⊢
  have hphases : ∀ m < 4, dataSide ((writeAction e.cfg)^[m] rowOpen.seq).phase = true := by
    rw [hseq₂]
    intro m hm
    interval_cases m <;> rfl
  obtain ⟨hseq₃, hdev₃⟩ := write_edges_dataSide e (.write r k v) 4 rowOpen hphases (by simp [hseq₂, hctrl])
    (by simp [hseq₂, hcas])
  rw [hseq₃, hdev₃, hseq₂, hdev₂]
  exact ⟨rfl, rfl⟩

/-- WRITE held on the port for eleven edges in `IDLE`: the value is stored at the eighth, and three edges follow (R154). -/
theorem write_eleven_edges (e : Env) (s : State) (r k v : Byte) (hv : e.cfg.Valid) (hp : s.seq.phase = .idle)
    (hfit : (Instr.write r k v).WellFormed e.cfg) (hpins : pinsOf s.seq = idlePins)
    (henables : enablesOf s.seq = (true, true, true)) :
    ((commandEdge e (.write r k v))^[11] s).seq = { s.seq with
      row := r, col := k, wdata := v, rspValid := false, dqOut := v, addrOut := addrToLines e.cfg k } ∧
    ((commandEdge e (.write r k v))^[11] s).dev =
      ageDevice^[3] (storeAt (cellKey r k) v { ageDevice^[8] s.dev with rowL := none, colL := none }) := by
  obtain ⟨hras, hcas, hwe, hdq⟩ := Pins.mk.inj hpins
  simp only [enablesOf, Prod.mk.injEq] at henables
  obtain ⟨hctrl, haddr, -⟩ := henables
  obtain ⟨hseq, hdev⟩ := write_seven_edges e s r k v hv hp hfit hctrl haddr hras hcas
  rw [show 11 = 3 + (1 + 7) from rfl, Function.iterate_add_apply, Function.iterate_add_apply, Function.iterate_one]
  generalize (commandEdge e (.write r k v))^[7] s = ready at hseq hdev ⊢
  obtain ⟨hseq₁, hdev₁⟩ := commandEdge_wCas e (.write r k v) ready r (by rw [hseq]) (by simp [hseq, hctrl])
    (by simp [hseq, haddr]) (by simp [pinsOf, hseq, hcas]) (by rw [hdev])
  simp only [hseq, hdev, colOfLines_addrToLines e.cfg k hv hfit.2.1] at hseq₁ hdev₁
  generalize commandEdge e (.write r k v) ready = stored at hseq₁ hdev₁ ⊢
  obtain ⟨hseq₂, hdev₂⟩ := write_release_edges e (.write r k v) stored (by rw [hseq₁]) (by simp [hseq₁, hctrl])
    (by rw [hseq₁]) (by rw [hseq₁])
  rw [hseq₂, hdev₂, hseq₁, hdev₁]
  refine ⟨?_, rfl⟩
  simp [hp, hras, hcas, hwe, hdq]

/-- Settles O27: the invariant gives the idle pins and the driven lines of `IDLE`; then the eleven edges, and reading the cells
after the one store and the edges around it. -/
theorem writeCompletes : Obligations.WriteCompletes := by
  unfold Obligations.WriteCompletes
  intro s r k v hs hp hfit
  have hidle := pinsFollowPhase_of_inRun hs (by simp [hp])
  rw [hp] at hidle
  obtain ⟨hpins, henables⟩ := hidle
  obtain ⟨hseq, hdev⟩ := write_eleven_edges Config.env s r k v config_valid hp hfit hpins henables
  refine ⟨_, execFor_eq_iterate 11 _ s, hseq, by rw [hseq]; exact hp, by rw [hseq]; exact hpins, ?_⟩
  rw [hdev, ageDevice_iterate_mem, stored_storeAt_same, find_ageDevice_iterate, find_ages_storeAt_same]
  refine ⟨rfl, rfl, fun other hother => ⟨?_, ?_⟩⟩
  · rw [stored_storeAt_other _ _ _ _ hother, ageDevice_iterate_mem]
  · rw [find_ageDevice_iterate, find_ages_storeAt_other _ _ _ _ hother, find_ageDevice_iterate, Option.map_map]
    rfl

end Sys2Proof.Machine
end

section
namespace Sys2Proof.Machine

/-! The edges of READ, phase by phase (R160 to R168). -/

theorem not_phaseReady_of_phaseOfRead {p : Phase} (h : phaseOfRead p = true) : phaseReady p = false := by
  revert h
  cases p <;> decide

theorem advanceSeq_of_phaseOfRead (c : Cfg) (dq : Byte) {q : Seq} (h : phaseOfRead q.phase = true) :
    advanceSeq c dq q = readAction c dq q := by
  unfold advanceSeq
  split <;> simp_all [phaseOfRead]

/-- In an `R_*` phase the edge makes the phase's action, whatever is on the port. -/
theorem commandEdge_phaseOfRead (e : Env) (i : Instr) (s : State) (h : phaseOfRead s.seq.phase = true) :
    commandEdge e i s = edgeTo e s (readAction e.cfg (dqIn e s.edge s.seq s.dev) s.seq) := by
  rw [commandEdge_busy e i s (not_phaseReady_of_phaseOfRead h), quietEdge, advanceSeq_of_phaseOfRead _ _ h]

theorem readAction_rRow (c : Cfg) (dq : Byte) {q : Seq} (h : q.phase = .rRow) :
    readAction c dq q = { q with addrOut := addrToLines c q.row, phase := .rRas } := by
  simp [readAction, h, presentIndex]

theorem readAction_rRas (c : Cfg) (dq : Byte) {q : Seq} (h : q.phase = .rRas) :
    readAction c dq q = { q with rasN := false, phase := .rCol } := by
  simp [readAction, h, assertRas]

theorem readAction_rCol (c : Cfg) (dq : Byte) {q : Seq} (h : q.phase = .rCol) :
    readAction c dq q = { q with addrOut := addrToLines c q.col, phase := .rCas } := by
  simp [readAction, h, presentIndex]

theorem readAction_rCas (c : Cfg) (dq : Byte) {q : Seq} (h : q.phase = .rCas) : readAction c dq q =
    { q with
      casN := false, cnt := BitVec.ofNat 8 c.settleCycles
      phase := if c.settleCycles = 0 then .rSample else .rSettle } := by
  simp [readAction, h, assertCas]

theorem readAction_rSettle (c : Cfg) (dq : Byte) {q : Seq} (h : q.phase = .rSettle) : readAction c dq q =
    { q with cnt := q.cnt - 1#8, phase := if q.cnt = 1#8 then .rSample else .rSettle } := by
  simp [readAction, h]

theorem readAction_rSample (c : Cfg) (dq : Byte) {q : Seq} (h : q.phase = .rSample) :
    readAction c dq q = { q with rdata := maskW c dq, phase := .rRel } := by
  simp [readAction, h]

theorem readAction_rRel (c : Cfg) (dq : Byte) {q : Seq} (h : q.phase = .rRel) :
    readAction c dq q = { q with rasN := true, casN := true, rspValid := true, phase := .idle } := by
  simp [readAction, h, releaseStrobes]

/-- The acceptance of a legal READ latches its operands and lets the device only grow older (R104, R106). -/
theorem commandEdge_read_idle (e : Env) (s : State) (r k : Byte) (hp : s.seq.phase = .idle)
    (hfit : (Instr.read r k).WellFormed e.cfg) (hc : s.seq.ctrlOe = true) :
    (commandEdge e (.read r k) s).seq = { s.seq with rspValid := false, row := r, col := k, phase := .rRow } ∧
      (commandEdge e (.read r k) s).dev = ageDevice s.dev := by
  have haccept := (acceptRead_idle e.cfg r k hp).trans (if_pos hfit)
  rw [commandEdge_ready e _ s ((phaseReady_iff _).mpr (.inr hp)), edgeTo_seq, edgeTo_dev]
  dsimp only
  rw [haccept]
  exact ⟨rfl, react_still _ _ _ _ _ hc rfl rfl rfl⟩

/-- An action of READ that moves no strobe lets the device only grow older (R161, R163, R165, R167). -/
theorem commandEdge_readAction_still (e : Env) (i : Instr) (s : State) (q : Seq) (h : phaseOfRead s.seq.phase = true)
    (hq : readAction e.cfg (dqIn e s.edge s.seq s.dev) s.seq = q) (hc : q.ctrlOe = true)
    (hr : q.rasN = s.seq.rasN) (hk : q.casN = s.seq.casN) (hw : q.weN = s.seq.weN) :
    (commandEdge e i s).seq = q ∧ (commandEdge e i s).dev = ageDevice s.dev := by
  rw [commandEdge_phaseOfRead e i s h, hq]
  exact ⟨rfl, react_still _ _ _ _ _ hc hr hk hw⟩

/-- `R_RAS` latches the row on the address lines (R77, R162). -/
theorem commandEdge_rRas (e : Env) (i : Instr) (s : State) (hp : s.seq.phase = .rRas) (hc : s.seq.ctrlOe = true)
    (ho : s.seq.addrOe = true) (hr : s.seq.rasN = true) (hk : s.seq.casN = true) :
    (commandEdge e i s).seq = { s.seq with rasN := false, phase := .rCol } ∧
      (commandEdge e i s).dev = ageDevice { s.dev with rowL := some (rowOfLines e.cfg s.seq.addrOut) } := by
  rw [commandEdge_phaseOfRead e i s (by rw [hp]; rfl), readAction_rRas _ _ hp]
  simp [react_rasFall, hc, ho, hr, hk]

/-- `R_CAS` latches the column on the address lines, stores nothing, and loads the settle counter (R78, R164). -/
theorem commandEdge_rCas (e : Env) (i : Instr) (s : State) (hp : s.seq.phase = .rCas) (hc : s.seq.ctrlOe = true)
    (ho : s.seq.addrOe = true) (hr : s.seq.rasN = false) (hk : s.seq.casN = true) (hw : s.seq.weN = true) :
    (commandEdge e i s).seq = { s.seq with
        casN := false, cnt := BitVec.ofNat 8 e.cfg.settleCycles
        phase := if e.cfg.settleCycles = 0 then .rSample else .rSettle } ∧
      (commandEdge e i s).dev = ageDevice { s.dev with colL := some (colOfLines e.cfg s.seq.addrOut) } := by
  rw [commandEdge_phaseOfRead e i s (by rw [hp]; rfl), readAction_rCas _ _ hp]
  simp [react_casFallRead, hc, ho, hr, hk, hw]

/-- `R_REL` raises both strobes, which empties the latches, and gives the response (R168). -/
theorem commandEdge_rRel (e : Env) (i : Instr) (s : State) (hp : s.seq.phase = .rRel) (hc : s.seq.ctrlOe = true)
    (hr : s.seq.rasN = false) (hk : s.seq.casN = false) :
    (commandEdge e i s).seq = { s.seq with rasN := true, casN := true, rspValid := true, phase := .idle } ∧
      (commandEdge e i s).dev = ageDevice { s.dev with rowL := none, colL := none } := by
  rw [commandEdge_phaseOfRead e i s (by rw [hp]; rfl), readAction_rRel _ _ hp]
  exact ⟨rfl, react_release _ _ _ _ _ hc hr hk rfl rfl⟩

/-! The edges of READ together. -/

/-- Aging does not touch the latches. -/
theorem ageDevice_iterate_latches (n : Nat) (d : Device) (row col : Option Byte) :
    ageDevice^[n] { d with rowL := row, colL := col } = { ageDevice^[n] d with rowL := row, colL := col } := by
  induction n with
  | zero => rfl
  | succ n ih =>
    rw [Function.iterate_succ_apply', ih, Function.iterate_succ_apply']
    rfl

/-- The settle loop: with `n` in the counter, the `n`-th edge is the one that comes to `R_SAMPLE` (R165, R166). -/
theorem read_settle_edges (e : Env) (i : Instr) (n : Nat) (s : State) (hcnt : s.seq.cnt.toNat = n)
    (hp : s.seq.phase = if n = 0 then .rSample else .rSettle) (hc : s.seq.ctrlOe = true) :
    ((commandEdge e i)^[n] s).seq = { s.seq with cnt := 0#8, phase := .rSample } ∧
      ((commandEdge e i)^[n] s).dev = ageDevice^[n] s.dev := by
  induction n generalizing s with
  | zero =>
    have hzero : s.seq.cnt = 0#8 := BitVec.eq_of_toNat_eq hcnt
    rw [if_pos rfl] at hp
    rw [← hzero, ← hp]
    exact ⟨rfl, rfl⟩
  | succ n ih =>
    obtain ⟨hseq, hdev⟩ := commandEdge_readAction_still e i s _ (by rw [hp]; rfl)
      (readAction_rSettle _ _ hp) hc rfl rfl rfl
    have hlast : s.seq.cnt = 1#8 ↔ n = 0 := by bv_omega
    have hless : (s.seq.cnt - 1#8).toNat = n := by bv_omega
    simp only [Function.iterate_succ_apply]
    obtain ⟨hseq', hdev'⟩ := ih (commandEdge e i s) (by rw [hseq]; exact hless) (by simp [hseq, hlast])
      (by rw [hseq]; exact hc)
    rw [hseq', hdev', hseq, hdev]
    exact ⟨rfl, rfl⟩

/-- The two edges of READ from `R_SAMPLE` to `IDLE` (R167, R168). -/
theorem read_last_edges (e : Env) (i : Instr) (s : State) (hp : s.seq.phase = .rSample) (hc : s.seq.ctrlOe = true)
    (hr : s.seq.rasN = false) (hk : s.seq.casN = false) :
    ((commandEdge e i)^[2] s).seq = { s.seq with
      rdata := maskW e.cfg (dqIn e s.edge s.seq s.dev), rasN := true, casN := true, rspValid := true
      phase := .idle } ∧
    ((commandEdge e i)^[2] s).dev = { ageDevice^[2] s.dev with rowL := none, colL := none } := by
  obtain ⟨hseq, hdev⟩ := commandEdge_readAction_still e i s _ (by rw [hp]; rfl)
    (readAction_rSample _ _ hp) hc rfl rfl rfl
  simp only [Function.iterate_succ_apply (commandEdge e i), Function.iterate_zero_apply]
  generalize commandEdge e i s = sampled at hseq hdev ⊢
  obtain ⟨hseq', hdev'⟩ := commandEdge_rRel e i sampled (by rw [hseq]) (by rw [hseq]; exact hc)
    (by rw [hseq]; exact hr) (by rw [hseq]; exact hk)
  rw [hseq', hdev', hseq, hdev]
  exact ⟨rfl, rfl⟩

section ReadFromIdle
variable {e : Env} {s : State} {r k : Byte} (hv : e.cfg.Valid) (hp : s.seq.phase = .idle)
  (hfit : (Instr.read r k).WellFormed e.cfg) (hpins : pinsOf s.seq = idlePins)
  (henables : enablesOf s.seq = (true, true, true))
include hv hp hfit hpins henables

/-- READ held on the port for five edges in `IDLE`, through `R_CAS`: the cell is open and the counter loaded (R160 to R164). -/
theorem read_five_edges :
    ((commandEdge e (.read r k))^[5] s).seq = { s.seq with
      row := r, col := k, rspValid := false, addrOut := addrToLines e.cfg k, rasN := false, casN := false
      cnt := BitVec.ofNat 8 e.cfg.settleCycles
      phase := if e.cfg.settleCycles = 0 then .rSample else .rSettle } ∧
    ((commandEdge e (.read r k))^[5] s).dev = { ageDevice^[5] s.dev with rowL := some r, colL := some k } := by
  obtain ⟨hras, hcas, hwe, -⟩ := Pins.mk.inj hpins
  simp only [enablesOf, Prod.mk.injEq] at henables
  obtain ⟨hctrl, haddr, -⟩ := henables
  simp only [Function.iterate_succ_apply (commandEdge e (.read r k)), Function.iterate_zero_apply]
  obtain ⟨hseq, hdev⟩ := commandEdge_read_idle e s r k hp hfit hctrl
  generalize commandEdge e (.read r k) s = accepted at hseq hdev ⊢
  obtain ⟨hseq₁, hdev₁⟩ := commandEdge_readAction_still e (.read r k) accepted _ (by rw [hseq]; rfl)
    (readAction_rRow _ _ (by rw [hseq])) (by rw [hseq]; exact hctrl) rfl rfl rfl
  simp only [hseq, hdev] at hseq₁ hdev₁
  generalize commandEdge e (.read r k) accepted = rowShown at hseq₁ hdev₁ ⊢
  obtain ⟨hseq₂, hdev₂⟩ := commandEdge_rRas e (.read r k) rowShown (by rw [hseq₁]) (by rw [hseq₁]; exact hctrl)
    (by rw [hseq₁]; exact haddr) (by rw [hseq₁]; exact hras) (by rw [hseq₁]; exact hcas)
  simp only [hseq₁, hdev₁, rowOfLines_addrToLines e.cfg r hv hfit.1] at hseq₂ hdev₂
  generalize commandEdge e (.read r k) rowShown = rowOpen at hseq₂ hdev₂ ⊢
  obtain ⟨hseq₃, hdev₃⟩ := commandEdge_readAction_still e (.read r k) rowOpen _ (by rw [hseq₂]; rfl)
    (readAction_rCol _ _ (by rw [hseq₂])) (by rw [hseq₂]; exact hctrl) rfl rfl rfl
  simp only [hseq₂, hdev₂] at hseq₃ hdev₃
  generalize commandEdge e (.read r k) rowOpen = colShown at hseq₃ hdev₃ ⊢
  obtain ⟨hseq₄, hdev₄⟩ := commandEdge_rCas e (.read r k) colShown (by rw [hseq₃]) (by rw [hseq₃]; exact hctrl)
    (by rw [hseq₃]; exact haddr) (by rw [hseq₃]) (by rw [hseq₃]; exact hcas) (by rw [hseq₃]; exact hwe)
  simp only [hseq₃, hdev₃, colOfLines_addrToLines e.cfg k hv hfit.2] at hseq₄ hdev₄
  exact ⟨hseq₄, hdev₄⟩

/-- READ held on the port up to `R_SAMPLE`: the counter is at 0 and the cell still open (R166). -/
theorem read_edges_to_sample :
    ((commandEdge e (.read r k))^[5 + e.cfg.settleCycles] s).seq = { s.seq with
      row := r, col := k, rspValid := false, addrOut := addrToLines e.cfg k, rasN := false, casN := false
      cnt := 0#8, phase := .rSample } ∧
    ((commandEdge e (.read r k))^[5 + e.cfg.settleCycles] s).dev =
      { ageDevice^[5 + e.cfg.settleCycles] s.dev with rowL := some r, colL := some k } := by
  obtain ⟨hseq, hdev⟩ := read_five_edges hv hp hfit hpins henables
  have hctrl : s.seq.ctrlOe = true := congrArg Prod.fst henables
  obtain ⟨-, -, -, -, hsettle⟩ := hv
  rw [Nat.add_comm, Function.iterate_add_apply, Function.iterate_add_apply]
  generalize (commandEdge e (.read r k))^[5] s = opened at hseq hdev ⊢
  have hloaded : opened.seq.cnt.toNat = e.cfg.settleCycles := by
    rw [hseq, BitVec.toNat_ofNat]
    omega
  obtain ⟨hseq', hdev'⟩ := read_settle_edges e (.read r k) e.cfg.settleCycles opened hloaded (by rw [hseq])
    (by rw [hseq]; exact hctrl)
  rw [hseq', hdev', hseq, hdev, ageDevice_iterate_latches]
  exact ⟨rfl, rfl⟩

/-- READ held on the port for its whole length: `RDATA` is what the sampling path delivers before the step of `R_SAMPLE`, and the
device is the older one with empty latches (R170). -/
theorem read_all_edges (u : State) (hu : (commandEdge e (.read r k))^[5 + e.cfg.settleCycles] s = u) :
    ((commandEdge e (.read r k))^[7 + e.cfg.settleCycles] s).seq = { s.seq with
      row := r, col := k, rdata := maskW e.cfg (dqIn e u.edge u.seq u.dev)
      rspValid := true, cnt := 0#8, addrOut := addrToLines e.cfg k } ∧
    ((commandEdge e (.read r k))^[7 + e.cfg.settleCycles] s).dev =
      { ageDevice^[7 + e.cfg.settleCycles] s.dev with rowL := none, colL := none } := by
  obtain ⟨hseq, hdev⟩ := read_edges_to_sample hv hp hfit hpins henables
  obtain ⟨hras, hcas, -, -⟩ := Pins.mk.inj hpins
  have hctrl : s.seq.ctrlOe = true := congrArg Prod.fst henables
  rw [hu] at hseq hdev
  have hlength : 7 + e.cfg.settleCycles = 2 + (5 + e.cfg.settleCycles) := by omega
  rw [hlength, Function.iterate_add_apply, hu, Function.iterate_add_apply ageDevice]
  obtain ⟨hseq', hdev'⟩ := read_last_edges e (.read r k) u (by rw [hseq]) (by rw [hseq]; exact hctrl) (by rw [hseq])
    (by rw [hseq])
  rw [hseq', hdev', hdev]
  exact ⟨by simp [hseq, hp, hras, hcas], rfl⟩

end ReadFromIdle

/-- Settles O32: in `IDLE` a run has the idle pins and the driven lines; then the edges to `R_SAMPLE` and the whole
command, over which the device only grows older. -/
theorem readCompletes : Obligations.ReadCompletes := by
  unfold Obligations.ReadCompletes
  intro s r k hs hp hfit
  have hidle := pinsFollowPhase_of_inRun hs (by simp [hp])
  rw [hp] at hidle
  obtain ⟨hpins, henables⟩ := hidle
  obtain ⟨hsampling, -⟩ := read_edges_to_sample config_valid hp hfit hpins henables
  obtain ⟨hseq, hdev⟩ := read_all_edges config_valid hp hfit hpins henables _ rfl
  refine ⟨_, _, execFor_eq_iterate _ _ s, by rw [hsampling], execFor_eq_iterate _ _ s, hseq, by rw [hseq]; exact hp,
    by rw [hseq]; exact hpins, fun key => ?_, fun key => ?_⟩
  · rw [hdev, ageDevice_iterate_mem]
  · rw [hdev, find_ageDevice_iterate]

end Sys2Proof.Machine
end

section
namespace Sys2Proof.Machine

/-! Each fault by the acceptance that raises it (R201 to R204). -/

/-- READ or WRITE accepted in `UNINIT` is too early, whatever its operands (R202). -/
theorem commandEdge_seq_notInit (e : Env) {i : Instr} {s : State} (hp : s.seq.phase = .uninit) (hi : i ≠ .init) :
    (commandEdge e i s).seq = raiseFault .notInit s.seq := by
  rw [commandEdge_ready e i s ((phaseReady_iff _).mpr (.inl hp)), edgeTo_seq]
  cases i with
  | init => exact absurd rfl hi
  | read r k => exact acceptRead_uninit _ _ _ hp
  | write r k v => exact acceptWrite_uninit _ _ _ _ hp

/-- INIT accepted in `IDLE` is a second one (R203). -/
theorem commandEdge_seq_reInit (e : Env) {s : State} (hp : s.seq.phase = .idle) :
    (commandEdge e .init s).seq = raiseFault .reInit s.seq := by
  rw [commandEdge_ready e .init s ((phaseReady_iff _).mpr (.inr hp)), edgeTo_seq]
  exact acceptInit_idle hp

/-- READ or WRITE accepted in `IDLE` with an operand out of range (R204). -/
theorem commandEdge_seq_operand (e : Env) {i : Instr} {s : State} (hp : s.seq.phase = .idle)
    (hi : ¬ i.WellFormed e.cfg) : (commandEdge e i s).seq = raiseFault .operand s.seq := by
  rw [commandEdge_ready e i s ((phaseReady_iff _).mpr (.inr hp)), edgeTo_seq]
  cases i with
  | init => exact absurd trivial hi
  | read r k => exact (acceptRead_idle e.cfg r k hp).trans (if_neg hi)
  | write r k v => exact (acceptWrite_idle e.cfg r k v hp).trans (if_neg hi)

/-- Settles O14: each clause is the acceptance that raises its fault. -/
theorem acceptanceFaults : Obligations.AcceptanceFaults := by
  unfold Obligations.AcceptanceFaults
  refine ⟨fun s word rest why hs hd hp => ?_, fun s i hp hi => ?_, fun s hp => ?_, fun e s i hp hi => ?_⟩
  · exact ⟨_, step_eq s, stepIn_seq_reserved Config.env s word rest why hs hd ((phaseReady_iff _).mpr hp)⟩
  · exact ⟨_, exec_eq i s, commandEdge_seq_notInit Config.env hp hi⟩
  · exact ⟨_, exec_eq .init s, commandEdge_seq_reInit Config.env hp⟩
  · exact commandEdge_seq_operand e hp hi

/-! What records no fault: a word that passes every check (R208), and every phase of a command (R200). -/

/-- Going from `q` to `q'` records no fault: `FAULT_CODE` is kept and `FAULT` is not entered. -/
def RecordsNoFault (q q' : Seq) : Prop := q'.faultCode = q.faultCode ∧ (q'.phase = .fault → q.phase = .fault)

theorem RecordsNoFault.refl (q : Seq) : RecordsNoFault q q := ⟨rfl, id⟩

theorem RecordsNoFault.phase_ne_fault {q q' : Seq} (h : RecordsNoFault q q') (hq : q.phase ≠ .fault) :
    q'.phase ≠ .fault := mt h.2 hq

theorem ne_fault_of_phaseReady {p : Phase} (h : phaseReady p = true) : p ≠ .fault := by
  rintro rfl
  cases h

theorem ne_fault_of_phaseBusy {p : Phase} (h : phaseBusy p = true) : p ≠ .fault := by
  rintro rfl
  cases h

/-- The lifecycle and the operands are as the acceptance checks them (R104): INIT in `UNINIT`, a legal READ or WRITE in `IDLE`. -/
def PassesChecks (c : Cfg) (i : Instr) (p : Phase) : Prop :=
  (p = .uninit ∧ i = .init) ∨ (p = .idle ∧ i ≠ .init ∧ i.WellFormed c)

theorem commandEdge_seq_recordsNoFault (e : Env) {i : Instr} {s : State} (h : PassesChecks e.cfg i s.seq.phase) :
    RecordsNoFault s.seq (commandEdge e i s).seq := by
  rcases h with ⟨hp, rfl⟩ | ⟨hp, hi, hfit⟩
  · rw [commandEdge_init_uninit e s hp, edgeTo_seq]
    exact ⟨rfl, nofun⟩
  · rw [commandEdge_ready e i s ((phaseReady_iff _).mpr (.inr hp)), edgeTo_seq]
    cases i with
    | init => exact absurd rfl hi
    | read r k =>
      dsimp only
      rw [(acceptRead_idle e.cfg r k hp).trans (if_pos hfit)]
      exact ⟨rfl, nofun⟩
    | write r k v =>
      dsimp only
      rw [(acceptWrite_idle e.cfg r k v hp).trans (if_pos hfit)]
      exact ⟨rfl, nofun⟩

/-- An accepted command raises one fault or records none (R208). -/
theorem commandEdge_seq_ready_cases (e : Env) (i : Instr) (s : State) (hr : phaseReady s.seq.phase = true) :
    (∃ f, (commandEdge e i s).seq = raiseFault f s.seq) ∨ RecordsNoFault s.seq (commandEdge e i s).seq := by
  rcases (phaseReady_iff _).mp hr with hp | hp <;> by_cases hi : i = .init
  · exact .inr (commandEdge_seq_recordsNoFault e (.inl ⟨hp, hi⟩))
  · exact .inl ⟨_, commandEdge_seq_notInit e hp hi⟩
  · subst hi
    exact .inl ⟨_, commandEdge_seq_reInit e hp⟩
  · by_cases hfit : i.WellFormed e.cfg
    · exact .inr (commandEdge_seq_recordsNoFault e (.inr ⟨hp, hi, hfit⟩))
    · exact .inl ⟨_, commandEdge_seq_operand e hp hfit⟩

/-- Settles O15: the reserved word is found by `decode`, before the phase and the operands are looked at; a command makes its edge,
whose faults exclude each other. -/
theorem faultPriority : Obligations.FaultPriority := by
  unfold Obligations.FaultPriority
  intro e s word rest hs hr
  refine ⟨fun why hd => ?_, fun i hd hp hi => ?_, fun i hd hp hi => ?_, fun i hd hp _ hfit => ?_, fun i hd hpass => ?_⟩
  · rw [stepIn_seq_reserved e s word rest why hs hd hr]
    rfl
  · rw [stepIn_command e s word rest i hs hd]
    exact congrArg Seq.faultCode (commandEdge_seq_notInit e (s := { s with host := rest }) hp hi)
  · subst hi
    rw [stepIn_command e s word rest .init hs hd]
    exact congrArg Seq.faultCode (commandEdge_seq_reInit e (s := { s with host := rest }) hp)
  · rw [stepIn_command e s word rest i hs hd]
    exact congrArg Seq.faultCode (commandEdge_seq_operand e (s := { s with host := rest }) hp hfit)
  · rw [stepIn_command e s word rest i hs hd]
    have hnone := commandEdge_seq_recordsNoFault e (s := { s with host := rest }) hpass
    exact ⟨hnone.1, hnone.phase_ne_fault (ne_fault_of_phaseReady hr)⟩

theorem initAction_recordsNoFault (q : Seq) : RecordsNoFault q (initAction q) := by
  unfold initAction
  split <;> simp [RecordsNoFault]

theorem readAction_recordsNoFault (c : Cfg) (dq : Byte) (q : Seq) : RecordsNoFault q (readAction c dq q) := by
  unfold readAction
  split <;> simp [RecordsNoFault, ite_eq_iff]

@[simp] theorem doRelease_faultCode (a : ReleaseAction) (q : Seq) : (doRelease a q).faultCode = q.faultCode := by
  cases a <;> rfl

theorem writeAction_recordsNoFault (c : Cfg) (q : Seq) : RecordsNoFault q (writeAction c q) := by
  unfold writeAction
  split <;> simp [RecordsNoFault]

theorem quietEdge_recordsNoFault (e : Env) (s : State) : RecordsNoFault s.seq (quietEdge e s).seq := by
  rw [quietEdge, edgeTo_seq]
  rcases advanceSeq_cases e.cfg (dqIn e s.edge s.seq s.dev) s.seq with ha | ha | ha | ha <;> rw [ha]
  · exact .refl _
  · exact initAction_recordsNoFault _
  · exact writeAction_recordsNoFault _ _
  · exact readAction_recordsNoFault _ _ _

/-- Where no word can be accepted, every step but a reset is that of a quiet port (R104). -/
theorem stepIn_of_not_ready (e : Env) (s : State) (hb : phaseReady s.seq.phase = false)
    (h : s.host.head? ≠ some .reset) : stepIn e s = quietEdge e { s with host := s.host.tail } := by
  match hs : s.host with
  | [] => rw [stepIn_silent e s hs, List.tail_nil, ← hs]
  | .idle :: rest => exact stepIn_idle e s rest hs
  | .reset :: rest => simp [hs] at h
  | .present word :: rest => exact stepIn_presented_busy e s word rest hs hb

/-- Every step but a reset is the acceptance of a presented word that raises one of the four faults, or records none (R200). -/
theorem stepIn_fault_cases (e : Env) (s : State) (h : s.host.head? ≠ some .reset) :
    (phaseReady s.seq.phase = true ∧ (∃ word rest, s.host = .present word :: rest) ∧
      ∃ f, (stepIn e s).seq = raiseFault f s.seq) ∨ RecordsNoFault s.seq (stepIn e s).seq := by
  cases hr : phaseReady s.seq.phase with
  | false =>
    rw [stepIn_of_not_ready e s hr h]
    exact .inr (quietEdge_recordsNoFault e _)
  | true =>
    match hs : s.host with
    | [] => exact .inr (by rw [stepIn_silent e s hs]; exact quietEdge_recordsNoFault e s)
    | .idle :: rest => exact .inr (by rw [stepIn_idle e s rest hs]; exact quietEdge_recordsNoFault e _)
    | .reset :: rest => simp [hs] at h
    | .present word :: rest =>
      cases hd : decode word with
      | reserved why => exact .inl ⟨rfl, ⟨word, rest, rfl⟩, .reserved, stepIn_seq_reserved e s word rest why hs hd hr⟩
      | command i =>
        rw [stepIn_command e s word rest i hs hd]
        exact (commandEdge_seq_ready_cases e i { s with host := rest } hr).imp_left
          fun hfault => ⟨rfl, ⟨word, rest, rfl⟩, hfault⟩

theorem not_phaseReady_of_phaseBusy {p : Phase} (h : phaseBusy p = true) : phaseReady p = false := by
  cases p <;> revert h <;> decide

/-- Settles O4: a step inside a command is a quiet edge; of all steps but a reset only the acceptance of a
presented word changes `FAULT_CODE`. -/
theorem nothingFaultsAfterAcceptance : Obligations.NothingFaultsAfterAcceptance := by
  unfold Obligations.NothingFaultsAfterAcceptance
  refine fun s => ⟨_, step_eq s, fun hb h => ?_, fun h hchanged => ?_⟩
  · rw [stepIn_of_not_ready Config.env s (not_phaseReady_of_phaseBusy hb) h]
    have hnone := quietEdge_recordsNoFault Config.env { s with host := s.host.tail }
    exact ⟨hnone.phase_ne_fault (ne_fault_of_phaseBusy hb), hnone.1⟩
  · rcases stepIn_fault_cases Config.env s h with ⟨hr, hword, f, hf⟩ | ⟨hcode, -⟩
    · exact ⟨hr, hword, f, by rw [hf, raiseFault_faultCode]⟩
    · exact absurd hcode hchanged

/-! In `FAULT` (R212). -/

theorem quietEdge_seq_fault (e : Env) (s : State) (hp : s.seq.phase = .fault) : (quietEdge e s).seq = s.seq := by
  simp [quietEdge, advanceSeq, hp]

/-- In `FAULT` no step but a reset changes a register, whatever the host presents. -/
theorem stepIn_seq_of_fault (e : Env) (s : State) (hp : s.seq.phase = .fault) (h : s.host.head? ≠ some .reset) :
    (stepIn e s).seq = s.seq := by
  rw [stepIn_of_not_ready e s (by rw [hp]; rfl) h]
  exact quietEdge_seq_fault e { s with host := s.host.tail } hp

/-- Settles O17: a step in `FAULT` keeps the registers; the reset edge leaves the reset values and an empty list of cells. -/
theorem faultOnlyLeftByReset : Obligations.FaultOnlyLeftByReset := by
  unfold Obligations.FaultOnlyLeftByReset
  refine fun s hp => ⟨_, step_eq s, fun h => ?_, fun h => ?_⟩
  · have hseq := stepIn_seq_of_fault Config.env s hp h
    refine ⟨hseq, stepIn_host Config.env s, ?_, ?_⟩
    · rw [State.cmdReady, hseq, hp]
      rfl
    · rw [State.busy, hseq, hp]
      rfl
  · obtain ⟨rest, hs⟩ := List.head?_eq_some_iff.mp h
    rw [stepIn_reset Config.env s rest hs]
    exact ⟨rfl, rfl, rfl, fun n key => memValue_of_mem_nil Config.env n _ key rfl⟩

/-! The device at the entry into `FAULT` (R210). -/

/-- A step that leaves the control lines floating leaves no cell listed (R76, R232). -/
theorem stepIn_mem_floating (e : Env) (s : State) (hfloat : (stepIn e s).seq.ctrlOe = false) :
    (stepIn e s).dev.mem = [] := by
  by_cases h : s.host.head? = some .reset
  · obtain ⟨rest, hs⟩ := List.head?_eq_some_iff.mp h
    rw [stepIn_reset e s rest hs]
    rfl
  · obtain ⟨q, hq⟩ := stepIn_eq_edgeTo e s h
    rw [hq, edgeTo_seq] at hfloat
    rw [hq, edgeTo_dev, react_float _ _ _ _ _ hfloat, floatDevice_mem]

theorem runIn_mem_floating (e : Env) (n : Nat) (s : State) (hs : s.seq.ctrlOe = false → s.dev.mem = [])
    (hfloat : (runIn e n s).seq.ctrlOe = false) : (runIn e n s).dev.mem = [] := by
  induction n generalizing s with
  | zero => exact hs hfloat
  | succ n ih => exact ih (stepIn e s) (stepIn_mem_floating e s) hfloat

/-- While the control lines float no cell is listed, in every state that a claim starts from. -/
theorem mem_floating_of_inRun {e : Env} {s : State} (hs : InRun e s) (hfloat : s.seq.ctrlOe = false) :
    s.dev.mem = [] := by
  rcases hs with ⟨-, s₀, n, hfrom, rfl⟩ | hinv
  · exact runIn_mem_floating e n s₀ (fun _ => hfrom.mem) hfloat
  · exact hinv.dev.floating hfloat

/-- The entry into `FAULT` moves no pin, so no cell changes, if none is listed while the control lines float (R210). -/
theorem react_raiseFault_mem (e : Env) (n : Nat) (f : Fault) (q : Seq) (d : Device)
    (hd : q.ctrlOe = false → d.mem = []) : (react e n q (raiseFault f q) d).mem = d.mem := by
  cases hc : q.ctrlOe with
  | false => rw [react_float e n q (raiseFault f q) d hc, floatDevice_mem, hd hc]
  | true => rw [react_still e n q (raiseFault f q) d hc rfl rfl rfl, ageDevice_mem]

theorem stepIn_memKept_of_raiseFault {e : Env} {s : State} {f : Fault} (hs : InRun e s) (h : s.host.head? ≠ some .reset)
    (hf : (stepIn e s).seq = raiseFault f s.seq) : MemKept s (stepIn e s) := by
  obtain ⟨q, hq⟩ := stepIn_eq_edgeTo e s h
  have hqf : q = raiseFault f s.seq := by rw [← hf, hq, edgeTo_seq]
  have hmem : (stepIn e s).dev.mem = s.dev.mem := by
    rw [hq, edgeTo_dev, hqf]
    exact react_raiseFault_mem e _ f s.seq s.dev (mem_floating_of_inRun hs)
  exact fun key => by rw [hmem]

theorem faultBits_ne_zero (f : Fault) : faultBits f ≠ 0#3 := by
  cases f <;> decide

/-- In a ready phase the four lines have their idle levels (R39). -/
theorem pinsOf_of_ready {e : Env} {s : State} (hs : InRun e s) (hr : phaseReady s.seq.phase = true) :
    pinsOf s.seq = idlePins := by
  rw [(pinsFollowPhase_of_inRun hs (ne_fault_of_phaseReady hr)).1]
  rcases (phaseReady_iff _).mp hr with hp | hp <;> rw [hp] <;> rfl

/-- Settles O16: a step from a ready phase into `FAULT` is the acceptance that raises a fault; it moves no pin, and the step after it
is taken in `FAULT`. -/
theorem faultEntryPrecise : Obligations.FaultEntryPrecise := by
  unfold Obligations.FaultEntryPrecise
  intro s t hs hr h hst htf
  rw [step_eq] at hst
  cases hst
  rcases stepIn_fault_cases Config.env s h with ⟨-, -, f, hf⟩ | hnone
  · have later (u : State) (h' : (stepIn Config.env s).host.head? ≠ some .reset)
        (hu : step (stepIn Config.env s) = .next u) : u.seq = (stepIn Config.env s).seq := by
      rw [step_eq] at hu
      cases hu
      exact stepIn_seq_of_fault Config.env _ htf h'
    refine ⟨by rw [hf]; rfl, by rw [hf]; exact faultBits_ne_zero f, stepIn_memKept_of_raiseFault hs h hf,
      by rw [State.cmdReady, htf]; rfl, by rw [State.busy, htf]; rfl, rfl, ?_, later⟩
    rw [hf]
    exact pinsOf_of_ready hs hr
  · exact absurd htf (hnone.phase_ne_fault (ne_fault_of_phaseReady hr))

end Sys2Proof.Machine
end

section
namespace Sys2Proof.Machine

/-! What the address lines and the data latch hold, phase by phase, in every state that a claim starts from (R240, R241). -/

/-- Before a strobe falls the index it latches is on the address lines, and from `W_DRIVE` on the value is in the data latch. -/
def LinesFollowPhase (c : Cfg) (q : Seq) : Prop :=
  (q.phase = .wRas ∨ q.phase = .rRas → q.addrOut = addrToLines c q.row) ∧
    (q.phase = .wCas ∨ q.phase = .rCas → q.addrOut = addrToLines c q.col) ∧
    (dataLoaded q.phase = true → q.dqOut = q.wdata)

theorem raiseFault_linesFollowPhase (c : Cfg) (f : Fault) (q : Seq) : LinesFollowPhase c (raiseFault f q) := by
  simp [LinesFollowPhase, dataLoaded]

theorem acceptInit_linesFollowPhase (c : Cfg) (q : Seq) : LinesFollowPhase c (acceptInit q) := by
  unfold acceptInit
  split
  · simp [LinesFollowPhase, dataLoaded]
  · exact raiseFault_linesFollowPhase c _ q

theorem acceptRead_linesFollowPhase (c : Cfg) (row col : Byte) (q : Seq) :
    LinesFollowPhase c (acceptRead c row col q) := by
  unfold acceptRead
  split
  · exact raiseFault_linesFollowPhase c _ q
  · split
    · simp [LinesFollowPhase, dataLoaded]
    · exact raiseFault_linesFollowPhase c _ q

theorem acceptWrite_linesFollowPhase (c : Cfg) (row col value : Byte) (q : Seq) :
    LinesFollowPhase c (acceptWrite c row col value q) := by
  unfold acceptWrite
  split
  · exact raiseFault_linesFollowPhase c _ q
  · split
    · simp [LinesFollowPhase, dataLoaded]
    · exact raiseFault_linesFollowPhase c _ q

theorem initAction_linesFollowPhase {c : Cfg} {q : Seq} (h : LinesFollowPhase c q) :
    LinesFollowPhase c (initAction q) := by
  unfold initAction
  split
  case h_4 => exact h
  all_goals simp [LinesFollowPhase, dataLoaded]

/-- `R_ROW` and `R_COL` present the index of the strobe that comes next; no other phase of READ comes before a strobe. -/
theorem readAction_linesFollowPhase {c : Cfg} (dq : Byte) {q : Seq} (h : LinesFollowPhase c q) :
    LinesFollowPhase c (readAction c dq q) := by
  unfold readAction
  split
  case h_8 => exact h
  case h_4 | h_5 => split <;> simp [LinesFollowPhase, dataLoaded]
  all_goals simp [LinesFollowPhase, dataLoaded]

@[simp] theorem doRelease_wdata (a : ReleaseAction) (q : Seq) : (doRelease a q).wdata = q.wdata := by
  cases a <;> rfl

@[simp] theorem doRelease_dqOut (a : ReleaseAction) (q : Seq) : (doRelease a q).dqOut = q.dqOut := by
  cases a <;> rfl

/-- `W_ROW` and `W_COL` present the index of the strobe that comes next; `W_DATA` loads the latch, which no later phase writes. -/
theorem writeAction_linesFollowPhase {c : Cfg} {q : Seq} (h : LinesFollowPhase c q) :
    LinesFollowPhase c (writeAction c q) := by
  unfold writeAction
  split
  case h_11 => exact h
  all_goals simp_all [LinesFollowPhase, dataLoaded]

theorem advanceSeq_linesFollowPhase {c : Cfg} (dq : Byte) {q : Seq} (h : LinesFollowPhase c q) :
    LinesFollowPhase c (advanceSeq c dq q) := by
  rcases advanceSeq_cases c dq q with ha | ha | ha | ha <;> rw [ha]
  · exact h
  · exact initAction_linesFollowPhase h
  · exact writeAction_linesFollowPhase h
  · exact readAction_linesFollowPhase dq h

theorem reset_linesFollowPhase (c : Cfg) : LinesFollowPhase c Seq.reset := by
  simp [LinesFollowPhase, Seq.reset, dataLoaded]

theorem stepIn_linesFollowPhase (e : Env) (s : State) (h : LinesFollowPhase e.cfg s.seq) :
    LinesFollowPhase e.cfg (stepIn e s).seq := by
  rcases stepIn_cases e s with hs | hs | ⟨-, q, hs, hq⟩ <;> rw [hs]
  · exact reset_linesFollowPhase e.cfg
  · exact advanceSeq_linesFollowPhase _ h
  · rw [edgeTo_seq]
    rcases hq with rfl | rfl | ⟨row, col, rfl⟩ | ⟨row, col, value, rfl⟩
    · exact raiseFault_linesFollowPhase _ _ _
    · exact acceptInit_linesFollowPhase _ _
    · exact acceptRead_linesFollowPhase _ _ _ _
    · exact acceptWrite_linesFollowPhase _ _ _ _ _

theorem runIn_linesFollowPhase (e : Env) (n : Nat) (s : State) (h : LinesFollowPhase e.cfg s.seq) :
    LinesFollowPhase e.cfg (runIn e n s).seq := by
  induction n generalizing s with
  | zero => exact h
  | succ n ih => exact ih (stepIn e s) (stepIn_linesFollowPhase e s h)

theorem linesFollowPhase_of_inRun {e : Env} {s : State} (hs : InRun e s) : LinesFollowPhase e.cfg s.seq := by
  rcases hs with ⟨-, s₀, n, hfrom, rfl⟩ | hinv
  · refine runIn_linesFollowPhase e n s₀ ?_
    rw [hfrom.seq]
    exact reset_linesFollowPhase e.cfg
  · exact ⟨hinv.seq.rowShown, hinv.seq.colShown, hinv.seq.loaded⟩

/-! The phases in which a pin takes its active level (R28, R31). -/

/-- From `q` to `q'` a line becomes active only in the phase that makes it so. -/
structure ActivatesByPhase (q q' : Seq) : Prop where
  ras : q.rasN = true → q'.rasN = false → q.phase = .wRas ∨ q.phase = .rRas
  cas : q.casN = true → q'.casN = false → q.phase = .wCas ∨ q.phase = .rCas
  we : q.weN = true → q'.weN = false → q.phase = .wWe
  dq : q.dqOe = false → q'.dqOe = true → q.phase = .wDrive

theorem activatesByPhase_of_pinsOf_eq {q q' : Seq} (h : pinsOf q' = pinsOf q) : ActivatesByPhase q q' := by
  obtain ⟨hras, hcas, hwe, hdq⟩ := Pins.mk.inj h
  constructor <;> simp_all

theorem initAction_activatesByPhase (q : Seq) : ActivatesByPhase q (initAction q) := by
  unfold initAction
  split <;> constructor <;> simp_all

theorem readAction_activatesByPhase (c : Cfg) (dq : Byte) (q : Seq) : ActivatesByPhase q (readAction c dq q) := by
  unfold readAction
  split <;> constructor <;> simp_all

/-- A release action makes no line active. -/
theorem doRelease_activatesByPhase (a : ReleaseAction) (p : Phase) (q : Seq) :
    ActivatesByPhase q { doRelease a q with phase := p } := by
  cases a <;> constructor <;> simp_all [doRelease]

theorem writeAction_activatesByPhase (c : Cfg) (q : Seq) : ActivatesByPhase q (writeAction c q) := by
  unfold writeAction
  split
  case h_8 | h_9 | h_10 => exact doRelease_activatesByPhase _ _ q
  all_goals constructor <;> simp_all

theorem quietEdge_activatesByPhase (e : Env) (s : State) : ActivatesByPhase s.seq (quietEdge e s).seq := by
  rw [quietEdge, edgeTo_seq]
  rcases advanceSeq_cases e.cfg (dqIn e s.edge s.seq s.dev) s.seq with ha | ha | ha | ha <;> rw [ha]
  · exact activatesByPhase_of_pinsOf_eq rfl
  · exact initAction_activatesByPhase _
  · exact writeAction_activatesByPhase _ _
  · exact readAction_activatesByPhase _ _ _

/-- Where a command can be accepted the edge moves none of the four lines (R104, R210). -/
theorem commandEdge_pins_ready (e : Env) (i : Instr) (s : State) (hr : phaseReady s.seq.phase = true) :
    pinsOf (commandEdge e i s).seq = pinsOf s.seq := by
  rw [commandEdge_ready e i s hr, edgeTo_seq]
  cases i with
  | init => exact (acceptInit_pins _).1
  | read r k => exact (acceptRead_pins _ _ _ _).1
  | write r k v => exact (acceptWrite_pins _ _ _ _ _).1

/-- A step from a ready phase moves none of the four lines, unless it is a reset. -/
theorem stepIn_pins_ready (e : Env) (s : State) (hr : phaseReady s.seq.phase = true)
    (h : s.host.head? ≠ some .reset) : pinsOf (stepIn e s).seq = pinsOf s.seq := by
  match hs : s.host with
  | [] => rw [stepIn_seq_quiet e s hr (by simp [hs])]
  | .idle :: rest => rw [stepIn_seq_quiet e s hr (by simp [hs])]
  | .reset :: rest => simp [hs] at h
  | .present word :: rest =>
    cases hd : decode word with
    | reserved why => rw [stepIn_seq_reserved e s word rest why hs hd hr]; rfl
    | command i =>
      rw [stepIn_command e s word rest i hs hd]
      exact commandEdge_pins_ready e i { s with host := rest } hr

theorem stepIn_activatesByPhase (e : Env) (s : State) (h : s.host.head? ≠ some .reset) :
    ActivatesByPhase s.seq (stepIn e s).seq := by
  cases hr : phaseReady s.seq.phase with
  | true => exact activatesByPhase_of_pinsOf_eq (stepIn_pins_ready e s hr h)
  | false =>
    rw [stepIn_of_not_ready e s hr h]
    exact quietEdge_activatesByPhase e { s with host := s.host.tail }

/-! The step of a command's phase under any moves of the host but a reset (R104). -/

theorem stepIn_seq_phaseOfWrite (e : Env) (s : State) (hp : phaseOfWrite s.seq.phase = true)
    (h : s.host.head? ≠ some .reset) : (stepIn e s).seq = writeAction e.cfg s.seq := by
  rw [stepIn_of_not_ready e s (not_phaseReady_of_phaseOfWrite hp) h, quietEdge, edgeTo_seq]
  exact advanceSeq_of_phaseOfWrite _ _ hp

theorem stepIn_seq_phaseOfRead (e : Env) (s : State) (hp : phaseOfRead s.seq.phase = true)
    (h : s.host.head? ≠ some .reset) :
    (stepIn e s).seq = readAction e.cfg (dqIn e s.edge s.seq s.dev) s.seq := by
  rw [stepIn_of_not_ready e s (not_phaseReady_of_phaseOfRead hp) h, quietEdge, edgeTo_seq]
  exact advanceSeq_of_phaseOfRead _ _ hp

/-- The step in which RAS falls, in a WRITE or in a READ, writes `RAS_N` and `PHASE` only (R142, R162). -/
theorem stepIn_seq_rasFalls (e : Env) (s : State) (hp : s.seq.phase = .wRas ∨ s.seq.phase = .rRas)
    (h : s.host.head? ≠ some .reset) : ∃ p, (stepIn e s).seq = { s.seq with rasN := false, phase := p } := by
  rcases hp with hp | hp
  · exact ⟨_, by rw [stepIn_seq_phaseOfWrite e s (by rw [hp]; rfl) h, writeAction_wRas _ hp]⟩
  · exact ⟨_, by rw [stepIn_seq_phaseOfRead e s (by rw [hp]; rfl) h, readAction_rRas _ _ hp]⟩

/-- The step in which CAS falls, in a WRITE or in a READ, writes `CAS_N`, `CNT` and `PHASE` only (R147, R164). -/
theorem stepIn_seq_casFalls (e : Env) (s : State) (hp : s.seq.phase = .wCas ∨ s.seq.phase = .rCas)
    (h : s.host.head? ≠ some .reset) :
    ∃ n p, (stepIn e s).seq = { s.seq with casN := false, cnt := n, phase := p } := by
  rcases hp with hp | hp
  · exact ⟨_, _, by rw [stepIn_seq_phaseOfWrite e s (by rw [hp]; rfl) h, writeAction_wCas _ hp]⟩
  · exact ⟨_, _, by rw [stepIn_seq_phaseOfRead e s (by rw [hp]; rfl) h, readAction_rCas _ _ hp]⟩

/-! The levels before those steps, in every state that a claim starts from (R39, R152). -/

theorem levels_of_inRun {e : Env} {s : State} {p : Phase} (hs : InRun e s) (hp : s.seq.phase = p) (hf : p ≠ .fault) :
    pinsOf s.seq = phasePins e.cfg p ∧ enablesOf s.seq = phaseEnables p := by
  subst hp
  exact pinsFollowPhase_of_inRun hs hf

/-- Where RAS is about to fall the address lines are driven. -/
theorem addrOe_before_ras {e : Env} {s : State} (hs : InRun e s) (hp : s.seq.phase = .wRas ∨ s.seq.phase = .rRas) :
    s.seq.addrOe = true := by
  have henables : enablesOf s.seq = (true, true, true) := by
    rcases hp with hp | hp <;> exact (levels_of_inRun hs hp nofun).2
  simp_all [enablesOf]

/-- Where CAS is about to fall the address lines are driven and RAS is low. -/
theorem addrOe_rasN_before_cas {e : Env} {s : State} (hs : InRun e s)
    (hp : s.seq.phase = .wCas ∨ s.seq.phase = .rCas) : s.seq.addrOe = true ∧ s.seq.rasN = false := by
  have henables : enablesOf s.seq = (true, true, true) := by
    rcases hp with hp | hp <;> exact (levels_of_inRun hs hp nofun).2
  have hras : (pinsOf s.seq).ras = false := by
    rcases hp with hp | hp <;> rw [(levels_of_inRun hs hp nofun).1] <;> rfl
  simp_all [enablesOf, pinsOf]

/-- Settles O48: a strobe falls only in its own phase, which starts with the index on the driven lines and writes neither the lines
nor the index. -/
theorem addressBeforeStrobe : Obligations.AddressBeforeStrobe := by
  unfold Obligations.AddressBeforeStrobe
  intro s t hs hst h
  rw [step_eq] at hst
  cases hst
  obtain ⟨hrow, hcol, -⟩ := linesFollowPhase_of_inRun hs
  have hphase := stepIn_activatesByPhase Config.env s h
  refine ⟨fun hbefore hafter => ?_, fun hbefore hafter => ?_⟩
  · have hp := hphase.ras hbefore hafter
    obtain ⟨_, hseq⟩ := stepIn_seq_rasFalls Config.env s hp h
    rw [hseq]
    exact ⟨addrOe_before_ras hs hp, hrow hp, rfl, rfl⟩
  · have hp := hphase.cas hbefore hafter
    obtain ⟨hdriven, hras⟩ := addrOe_rasN_before_cas hs hp
    obtain ⟨_, _, hseq⟩ := stepIn_seq_casFalls Config.env s hp h
    rw [hseq]
    exact ⟨hdriven, hcol hp, rfl, rfl, hras⟩

/-- Settles O49: each pin event happens only in its own phase, whose starting levels and whose one register write give the order. CAS
falls in a READ too, but there WE is high. -/
theorem writeOrderIntoDevice : Obligations.WriteOrderIntoDevice := by
  unfold Obligations.WriteOrderIntoDevice
  intro s t hs hst h
  rw [step_eq] at hst
  cases hst
  obtain ⟨-, hcol, hloaded⟩ := linesFollowPhase_of_inRun hs
  have hphase := stepIn_activatesByPhase Config.env s h
  have hwrite := fun hp => stepIn_seq_phaseOfWrite Config.env s hp h
  refine ⟨fun hbefore hafter => ?_, fun hbefore hafter => ?_, fun hbefore hafter hwe => ?_, fun hp => ?_, fun hp => ?_⟩
  · have hp := hphase.dq hbefore hafter
    have hvalue := hloaded (by rw [hp]; rfl)
    rw [hwrite (by rw [hp]; rfl), writeAction_wDrive _ hp]
    exact ⟨hvalue, hvalue⟩
  · have hp := hphase.we hbefore hafter
    obtain ⟨-, hcas, -, hdq⟩ := Pins.mk.inj (levels_of_inRun hs hp nofun).1
    rw [hwrite (by rw [hp]; rfl), writeAction_wWe _ hp]
    exact ⟨hdq, hdq, hloaded (by rw [hp]; rfl), hcas⟩
  · rcases hphase.cas hbefore hafter with hp | hp
    · obtain ⟨-, -, -, hdq⟩ := Pins.mk.inj (levels_of_inRun hs hp nofun).1
      rw [hwrite (by rw [hp]; rfl), writeAction_wCas _ hp]
      exact ⟨hwe, hdq, hdq, hloaded (by rw [hp]; rfl), hcol (.inl hp)⟩
    · obtain ⟨-, -, hweHigh, -⟩ := Pins.mk.inj (levels_of_inRun hs hp nofun).1
      rw [hweHigh] at hwe
      cases hwe
  · obtain ⟨-, hcas, hwe, hdq⟩ := Pins.mk.inj (levels_of_inRun hs hp nofun).1
    rw [hwrite (by rw [hp]; rfl), writeAction_wCol _ hp]
    exact ⟨hwe, hwe, hdq, hdq, hloaded (by rw [hp]; rfl), hcas, hcas, rfl⟩
  · obtain ⟨-, hcas, hwe, hdq⟩ := Pins.mk.inj (levels_of_inRun hs hp nofun).1
    have hvalue := hloaded (by rw [hp]; rfl)
    rw [hwrite (by rw [hp]; rfl), writeAction_wCas _ hp]
    exact ⟨hwe, hwe, hdq, hdq, hvalue, hvalue, hcas, rfl, hcol (.inl hp), rfl⟩

end Sys2Proof.Machine
end

section
namespace Sys2Proof.Machine

/-! What a step that is no reset writes: the acceptance of a presented word, or the action of the phase (R24, R104). -/

/-- The registers after the acceptance of a word (R104). -/
def acceptWord (c : Cfg) (word : CmdWord) (q : Seq) : Seq :=
  match decode word with
  | .reserved _ => raiseFault .reserved q
  | .command .init => acceptInit q
  | .command (.read row col) => acceptRead c row col q
  | .command (.write row col value) => acceptWrite c row col value q

/-- In a ready phase a presented word takes the sequencer where its acceptance says. -/
theorem stepIn_presented_ready (e : Env) (s : State) (word : CmdWord) (rest : List HostMove)
    (hs : s.host = .present word :: rest) (hr : phaseReady s.seq.phase = true) :
    stepIn e s = edgeTo e { s with host := rest } (acceptWord e.cfg word s.seq) := by
  cases hd : decode word with
  | reserved why =>
    rw [stepIn_reserved e s word rest why hs hd, reservedEdge_ready e { s with host := rest } hr, acceptWord, hd]
  | command i =>
    rw [stepIn_command e s word rest i hs hd, commandEdge_ready e i { s with host := rest } hr, acceptWord, hd]
    cases i <;> rfl

/-- The four outcomes of an acceptance (R104): a fault, or one of the three commands with its operands latched. -/
inductive AcceptOutcome (c : Cfg) (word : CmdWord) (q : Seq) : Seq → Prop
  | fault (f : Fault) : AcceptOutcome c word q (raiseFault f q)
  | init (hp : q.phase = .uninit) (hd : decode word = .command .init) :
    AcceptOutcome c word q { q with rspValid := false, phase := .iCtrl }
  | read (r k : Byte) (hp : q.phase = .idle) (hd : decode word = .command (.read r k))
    (hfit : (Instr.read r k).WellFormed c) :
    AcceptOutcome c word q { q with rspValid := false, row := r, col := k, phase := .rRow }
  | write (r k v : Byte) (hp : q.phase = .idle) (hd : decode word = .command (.write r k v))
    (hfit : (Instr.write r k v).WellFormed c) :
    AcceptOutcome c word q { q with rspValid := false, row := r, col := k, wdata := v, phase := .wRow }

theorem acceptWord_outcome (c : Cfg) (word : CmdWord) {q : Seq} (hr : phaseReady q.phase = true) :
    AcceptOutcome c word q (acceptWord c word q) := by
  unfold acceptWord
  rcases (phaseReady_iff _).mp hr with hp | hp
  · split
    case h_1 => exact .fault _
    case h_2 hd => exact acceptInit_uninit hp ▸ .init hp hd
    case h_3 => exact acceptRead_uninit c _ _ hp ▸ .fault _
    case h_4 => exact acceptWrite_uninit c _ _ _ hp ▸ .fault _
  · split
    case h_1 => exact .fault _
    case h_2 => exact acceptInit_idle hp ▸ .fault _
    case h_3 r k hd =>
      rw [acceptRead_idle c r k hp]
      split
      case isTrue hfit => exact .read r k hp hd hfit
      case isFalse => exact .fault _
    case h_4 r k v hd =>
      rw [acceptWrite_idle c r k v hp]
      split
      case isTrue hfit => exact .write r k v hp hd hfit
      case isFalse => exact .fault _

/-- Every step but a reset accepts a presented word in a ready phase, or makes the action of the phase. -/
theorem stepIn_seq_cases (e : Env) (s : State) (h : s.host.head? ≠ some .reset) :
    (phaseReady s.seq.phase = true ∧ ∃ word rest, s.host = .present word :: rest ∧
      AcceptOutcome e.cfg word s.seq (stepIn e s).seq) ∨
    ((phaseReady s.seq.phase = true → ¬ ∃ word rest, s.host = .present word :: rest) ∧
      (stepIn e s).seq = advanceSeq e.cfg (dqIn e s.edge s.seq s.dev) s.seq) := by
  cases hr : phaseReady s.seq.phase with
  | false =>
    rw [stepIn_of_not_ready e s hr h]
    exact .inr ⟨nofun, rfl⟩
  | true =>
    match hs : s.host with
    | [] => exact .inr ⟨by simp, by rw [stepIn_silent e s hs]; rfl⟩
    | .idle :: rest => exact .inr ⟨by simp, by rw [stepIn_idle e s rest hs]; rfl⟩
    | .reset :: rest => simp [hs] at h
    | .present word :: rest =>
      rw [stepIn_presented_ready e s word rest hs hr, edgeTo_seq]
      exact .inl ⟨rfl, word, rest, rfl, acceptWord_outcome e.cfg word hr⟩

/-- An acceptance clears `RSP_VALID` and writes no pin register, no drive enable, no data latch and not the settle counter, and
`FAULT_CODE` only where it faults (R104, R210). -/
structure AcceptFrame (q q' : Seq) : Prop where
  pins : pinsOf q' = pinsOf q
  enables : enablesOf q' = enablesOf q
  addrOut : q'.addrOut = q.addrOut
  dqOut : q'.dqOut = q.dqOut
  rdata : q'.rdata = q.rdata
  cnt : q'.cnt = q.cnt
  rspValid : q'.rspValid = false
  faultCode : q'.phase ≠ .fault → q'.faultCode = q.faultCode

theorem AcceptOutcome.frame {c : Cfg} {word : CmdWord} {q q' : Seq} (h : AcceptOutcome c word q q') :
    AcceptFrame q q' := by
  cases h with
  | fault f => exact ⟨rfl, rfl, rfl, rfl, rfl, rfl, rfl, absurd (raiseFault_phase f q)⟩
  | init => exact ⟨rfl, rfl, rfl, rfl, rfl, rfl, rfl, fun _ => rfl⟩
  | read => exact ⟨rfl, rfl, rfl, rfl, rfl, rfl, rfl, fun _ => rfl⟩
  | write => exact ⟨rfl, rfl, rfl, rfl, rfl, rfl, rfl, fun _ => rfl⟩

/-- An accepted INIT latches no operand. -/
theorem AcceptOutcome.operands_of_init {c : Cfg} {word : CmdWord} {q q' : Seq} (h : AcceptOutcome c word q q')
    (hi : decode word = .command .init) : q'.row = q.row ∧ q'.col = q.col ∧ q'.wdata = q.wdata := by
  cases h with
  | fault => exact ⟨rfl, rfl, rfl⟩
  | init => exact ⟨rfl, rfl, rfl⟩
  | read r k _ hd => simp [hi] at hd
  | write r k v _ hd => simp [hi] at hd

/-- An accepted READ latches no value. -/
theorem AcceptOutcome.wdata_of_read {c : Cfg} {word : CmdWord} {q q' : Seq} (h : AcceptOutcome c word q q') {r k : Byte}
    (hi : decode word = .command (.read r k)) : q'.wdata = q.wdata := by
  cases h with
  | fault => rfl
  | init => rfl
  | read => rfl
  | write r k v _ hd => simp [hi] at hd

theorem enablesOf_eq_iff (q q' : Seq) :
    enablesOf q' = enablesOf q ↔ q'.ctrlOe = q.ctrlOe ∧ q'.addrOe = q.addrOe ∧ q'.inited = q.inited := by
  simp [enablesOf]

/-! A release action, register by register (R148). -/

@[simp] theorem doRelease_row (a : ReleaseAction) (q : Seq) : (doRelease a q).row = q.row := by cases a <;> rfl
@[simp] theorem doRelease_col (a : ReleaseAction) (q : Seq) : (doRelease a q).col = q.col := by cases a <;> rfl
@[simp] theorem doRelease_rdata (a : ReleaseAction) (q : Seq) : (doRelease a q).rdata = q.rdata := by cases a <;> rfl
@[simp] theorem doRelease_cnt (a : ReleaseAction) (q : Seq) : (doRelease a q).cnt = q.cnt := by cases a <;> rfl
@[simp] theorem doRelease_inited (a : ReleaseAction) (q : Seq) : (doRelease a q).inited = q.inited := by cases a <;> rfl
@[simp] theorem doRelease_rspValid (a : ReleaseAction) (q : Seq) : (doRelease a q).rspValid = q.rspValid := by
  cases a <;> rfl
@[simp] theorem doRelease_addrOut (a : ReleaseAction) (q : Seq) : (doRelease a q).addrOut = q.addrOut := by
  cases a <;> rfl
@[simp] theorem doRelease_addrOe (a : ReleaseAction) (q : Seq) : (doRelease a q).addrOe = q.addrOe := by cases a <;> rfl

/-! The action of a phase, register by register: which phases write it, and with what (R21 to R34). -/

section AdvanceSeq
variable (c : Cfg) (dq : Byte) (q : Seq)

@[simp] theorem advanceSeq_row : (advanceSeq c dq q).row = q.row := by
  cases hp : q.phase <;> simp [advanceSeq, initAction, writeAction, readAction, hp]

@[simp] theorem advanceSeq_col : (advanceSeq c dq q).col = q.col := by
  cases hp : q.phase <;> simp [advanceSeq, initAction, writeAction, readAction, hp]

@[simp] theorem advanceSeq_wdata : (advanceSeq c dq q).wdata = q.wdata := by
  cases hp : q.phase <;> simp [advanceSeq, initAction, writeAction, readAction, hp]

theorem advanceSeq_rdata : (advanceSeq c dq q).rdata = if q.phase = .rSample then maskW c dq else q.rdata := by
  cases hp : q.phase <;> simp [advanceSeq, initAction, writeAction, readAction, hp]

theorem advanceSeq_cnt : (advanceSeq c dq q).cnt =
    if q.phase = .rCas then BitVec.ofNat 8 c.settleCycles
    else if q.phase = .rSettle then q.cnt - 1#8 else q.cnt := by
  cases hp : q.phase <;> simp [advanceSeq, initAction, writeAction, readAction, hp]

theorem advanceSeq_inited : (advanceSeq c dq q).inited = if q.phase = .iData then true else q.inited := by
  cases hp : q.phase <;> simp [advanceSeq, initAction, writeAction, readAction, hp]

theorem advanceSeq_rspValid : (advanceSeq c dq q).rspValid = if q.phase = .rRel then true else q.rspValid := by
  cases hp : q.phase <;> simp [advanceSeq, initAction, writeAction, readAction, hp]

@[simp] theorem advanceSeq_faultCode : (advanceSeq c dq q).faultCode = q.faultCode := by
  cases hp : q.phase <;> simp [advanceSeq, initAction, writeAction, readAction, hp]

theorem advanceSeq_ctrlOe : (advanceSeq c dq q).ctrlOe = if q.phase = .iCtrl then true else q.ctrlOe := by
  cases hp : q.phase <;> simp [advanceSeq, initAction, writeAction, readAction, hp]

theorem advanceSeq_addrOe : (advanceSeq c dq q).addrOe = if q.phase = .iAddr then true else q.addrOe := by
  cases hp : q.phase <;> simp [advanceSeq, initAction, writeAction, readAction, hp]

theorem advanceSeq_addrOut : (advanceSeq c dq q).addrOut =
    if q.phase = .iAddr then 0#8
    else if q.phase = .wRow ∨ q.phase = .rRow then addrToLines c q.row
    else if q.phase = .wCol ∨ q.phase = .rCol then addrToLines c q.col
    else q.addrOut := by
  cases hp : q.phase <;> simp [advanceSeq, initAction, writeAction, readAction, hp]

theorem advanceSeq_dqOut : (advanceSeq c dq q).dqOut = if q.phase = .wData then q.wdata else q.dqOut := by
  cases hp : q.phase <;> simp [advanceSeq, initAction, writeAction, readAction, hp]

end AdvanceSeq

/-! Where a line is released (R28, R31). -/

/-- From `q` to `q'` a line is released only in a phase that releases it, and both strobes together. -/
structure ReleasesByPhase (q q' : Seq) : Prop where
  ras : q'.rasN = true → q.rasN = false → q.phase ∈ [Phase.iCtrl, .rRel, .wX1, .wX2, .wX3] ∧ q'.casN = true
  cas : q'.casN = true → q.casN = false → q.phase ∈ [Phase.iCtrl, .rRel, .wX1, .wX2, .wX3] ∧ q'.rasN = true
  we : q'.weN = true → q.weN = false → q.phase ∈ [Phase.iCtrl, .wX1, .wX2, .wX3]
  dq : q'.dqOe = false → q.dqOe = true → q.phase ∈ [Phase.iData, .wX1, .wX2, .wX3]

theorem releasesByPhase_of_pinsOf_eq {q q' : Seq} (h : pinsOf q' = pinsOf q) : ReleasesByPhase q q' := by
  obtain ⟨hras, hcas, hwe, hdq⟩ := Pins.mk.inj h
  constructor <;> simp_all

theorem initAction_releasesByPhase (q : Seq) : ReleasesByPhase q (initAction q) := by
  unfold initAction
  split <;> constructor <;> simp_all

theorem readAction_releasesByPhase (c : Cfg) (dq : Byte) (q : Seq) : ReleasesByPhase q (readAction c dq q) := by
  unfold readAction
  split <;> constructor <;> simp_all

theorem doRelease_releasesByPhase (a : ReleaseAction) (p : Phase) {q : Seq} (hp : q.phase ∈ [Phase.wX1, .wX2, .wX3]) :
    ReleasesByPhase q { doRelease a q with phase := p } := by
  simp only [List.mem_cons, List.not_mem_nil, or_false] at hp
  cases a <;> constructor <;> simp_all [doRelease]

theorem writeAction_releasesByPhase (c : Cfg) (q : Seq) : ReleasesByPhase q (writeAction c q) := by
  unfold writeAction
  split
  case h_8 hp | h_9 hp | h_10 hp => exact doRelease_releasesByPhase _ _ (by simp [hp])
  all_goals constructor <;> simp_all

theorem advanceSeq_releasesByPhase (c : Cfg) (dq : Byte) (q : Seq) : ReleasesByPhase q (advanceSeq c dq q) := by
  rcases advanceSeq_cases c dq q with ha | ha | ha | ha <;> rw [ha]
  · exact releasesByPhase_of_pinsOf_eq rfl
  · exact initAction_releasesByPhase q
  · exact writeAction_releasesByPhase c q
  · exact readAction_releasesByPhase c dq q

theorem stepIn_releasesByPhase (e : Env) (s : State) (h : s.host.head? ≠ some .reset) :
    ReleasesByPhase s.seq (stepIn e s).seq := by
  rcases stepIn_seq_cases e s h with ⟨-, word, rest, -, hout⟩ | ⟨-, hadv⟩
  · exact releasesByPhase_of_pinsOf_eq hout.frame.pins
  · exact hadv ▸ advanceSeq_releasesByPhase _ _ _

/-- The enables and the latches of the address and the data lines: which phases write them, with what (R29 to R31). -/
structure LinesByPhase (c : Cfg) (q q' : Seq) : Prop where
  ctrlOe : q'.ctrlOe ≠ q.ctrlOe → q.phase = .iCtrl ∧ q'.ctrlOe = true
  addrOe : q'.addrOe ≠ q.addrOe → q.phase = .iAddr ∧ q'.addrOe = true
  addrOut : q'.addrOut ≠ q.addrOut →
    q.phase = .iAddr ∧ q'.addrOut = 0#8 ∨
    (q.phase = .wRow ∨ q.phase = .rRow) ∧ q'.addrOut = addrToLines c q.row ∨
    (q.phase = .wCol ∨ q.phase = .rCol) ∧ q'.addrOut = addrToLines c q.col
  dqOut : q'.dqOut ≠ q.dqOut → q.phase = .wData ∧ q'.dqOut = q.wdata

theorem advanceSeq_linesByPhase (c : Cfg) (dq : Byte) (q : Seq) : LinesByPhase c q (advanceSeq c dq q) := by
  constructor
  case ctrlOe => rw [advanceSeq_ctrlOe]; split <;> simp_all
  case addrOe => rw [advanceSeq_addrOe]; split <;> simp_all
  case addrOut =>
    rw [advanceSeq_addrOut]
    split
    case isTrue hp => exact fun _ => .inl ⟨hp, rfl⟩
    split
    case isTrue hp => exact fun _ => .inr (.inl ⟨hp, rfl⟩)
    split
    case isTrue hp => exact fun _ => .inr (.inr ⟨hp, rfl⟩)
    exact fun h => absurd rfl h
  case dqOut => rw [advanceSeq_dqOut]; split <;> simp_all

theorem stepIn_linesByPhase (e : Env) (s : State) (h : s.host.head? ≠ some .reset) :
    LinesByPhase e.cfg s.seq (stepIn e s).seq := by
  rcases stepIn_seq_cases e s h with ⟨-, word, rest, -, hout⟩ | ⟨-, hadv⟩
  · obtain ⟨-, henables, haddr, hdq, -, -, -, -⟩ := hout.frame
    obtain ⟨hctrl, haddrOe, -⟩ := (enablesOf_eq_iff _ _).mp henables
    exact ⟨absurd hctrl, absurd haddrOe, absurd haddr, absurd hdq⟩
  · exact hadv ▸ advanceSeq_linesByPhase _ _ _

/-- Settles O47: a line is asserted, released or written by the action of a phase only, and an acceptance moves none. -/
theorem pinRegisterWriters : Obligations.PinRegisterWriters := by
  unfold Obligations.PinRegisterWriters
  intro s t hst h
  rw [step_eq] at hst
  cases hst
  have hfall := stepIn_activatesByPhase Config.env s h
  have hrise := stepIn_releasesByPhase Config.env s h
  have hlines := stepIn_linesByPhase Config.env s h
  exact ⟨fun h1 h0 => hfall.ras h0 h1, fun h1 h0 => hfall.cas h0 h1, fun h1 h0 => hfall.we h0 h1, hrise.ras, hrise.cas,
    hrise.we, hlines.ctrlOe, hlines.addrOe, hlines.addrOut, hlines.dqOut, fun h1 h0 => hfall.dq h0 h1, hrise.dq⟩

/-- Settles O50: by the two ways a step can go; the action of a phase writes `INITED` in `I_DATA` and `RSP_VALID` in `R_REL`. -/
theorem flagWriters : Obligations.FlagWriters := by
  unfold Obligations.FlagWriters
  intro s t hst h
  rw [step_eq] at hst
  cases hst
  rcases stepIn_seq_cases Config.env s h with ⟨hr, word, rest, hs, hout⟩ | ⟨hnone, hadv⟩
  · obtain ⟨-, -, hinited⟩ := (enablesOf_eq_iff _ _).mp hout.frame.enables
    have hrsp := hout.frame.rspValid
    refine ⟨absurd hinited, fun h1 => ?_, fun _ _ => hrsp, fun _ _ => ⟨hr, word, rest, hs⟩, fun hcode => ?_⟩
    · simp [hrsp] at h1
    · rcases stepIn_fault_cases Config.env s h with ⟨-, -, f, hf⟩ | hsame
      · exact ⟨hr, by rw [hf]; rfl, word, rest, hs⟩
      · exact absurd hsame.1 hcode
  · rw [hadv, advanceSeq_inited, advanceSeq_rspValid, advanceSeq_faultCode]
    refine ⟨?_, ?_, fun hr hword => absurd hword (hnone hr), ?_, absurd rfl⟩
    all_goals split <;> simp_all

/-- Settles O51: by the two ways a step can go; only an accepted command latches operands. -/
theorem dataRegisterWriters : Obligations.DataRegisterWriters := by
  unfold Obligations.DataRegisterWriters
  intro s t hst h
  rw [step_eq] at hst
  cases hst
  rcases stepIn_seq_cases Config.env s h with ⟨-, word, rest, hs, hout⟩ | ⟨-, hadv⟩
  · have hrdata := hout.frame.rdata
    have hcnt := hout.frame.cnt
    generalize (stepIn Config.env s).seq = q' at hout hrdata hcnt ⊢
    refine ⟨fun hidx => ?_, fun hdata => ?_, absurd hrdata, absurd hcnt⟩
    · cases hout with
      | fault => simp at hidx
      | init => simp at hidx
      | read r k hp hd _ => exact ⟨hp, word, rest, hs, .inl hd⟩
      | write r k v hp hd _ => exact ⟨hp, word, rest, hs, .inr ⟨v, hd⟩⟩
    · cases hout with
      | fault => simp at hdata
      | init => simp at hdata
      | read => simp at hdata
      | write r k v hp hd _ => exact ⟨hp, word, rest, r, k, hs, hd⟩
  · rw [hadv, advanceSeq_row, advanceSeq_col, advanceSeq_wdata, advanceSeq_rdata, advanceSeq_cnt]
    refine ⟨by simp, by simp, ?_, ?_⟩
    · split <;> simp_all
    · split
      · exact fun _ => .inl ‹_›
      · split <;> simp_all

end Sys2Proof.Machine
end

section
namespace Sys2Proof.Machine

/-! The commands and the port: reset, acceptance and the pin actions of a phase (R104, R130 to R168). -/

/-- Settles O2: the reset edge leaves the reset values and no cell listed. -/
theorem resetFromAnyState : Obligations.ResetFromAnyState := by
  unfold Obligations.ResetFromAnyState
  intro s rest hs
  exact ⟨_, step_reset s rest hs, rfl, rfl, rfl, rfl, fun n key => memValue_of_mem_nil Config.env n _ key rfl⟩

/-- Settles O3: both sides are the command's edge. -/
theorem stepRunsPresentedCommand : Obligations.StepRunsPresentedCommand := by
  unfold Obligations.StepRunsPresentedCommand
  intro s word rest i hs hd
  rw [step_eq, stepIn_command Config.env s word rest i hs hd, exec_eq]

/-- Settles O7: with nothing presented a ready phase keeps its registers, and the step uses up the idle move. -/
theorem quietReadyStateStays : Obligations.QuietReadyStateStays := by
  unfold Obligations.QuietReadyStateStays
  intro s hr hq
  exact ⟨_, step_eq s, stepIn_seq_quiet Config.env s hr hq, stepIn_host Config.env s⟩

/-- Settles O6: inside a command both steps are the quiet edge, which does not look at the host's moves. -/
theorem portIgnoredWhileBusy : Obligations.PortIgnoredWhileBusy := by
  unfold Obligations.PortIgnoredWhileBusy
  intro s u s' u' hsu hb hs hu hss' huu'
  have hnot := not_phaseReady_of_phaseBusy hb
  have hseq : u.seq = s.seq := by rw [← hsu]
  rw [step_eq, stepIn_of_not_ready Config.env s hnot hs] at hss'
  rw [step_eq, stepIn_of_not_ready Config.env u (hseq ▸ hnot) hu, ← hsu] at huu'
  cases hss'
  cases huu'
  rfl

/-- Settles O10: the decoder is run on the nine words. -/
theorem specWordsDecode : Obligations.SpecWordsDecode := by
  unfold Obligations.SpecWordsDecode
  exact ⟨by decide, by decide, by decide, by decide, by decide, by decide, by decide, by decide, by decide⟩

/-- The observed wiring keeps the two low bits and moves the next four up by two (R71). -/
theorem addrToLines_observed66 (a : Byte) :
    addrToLines Cfg.observed66 a = (a &&& 0x03#8) ||| ((a &&& 0x3C#8) <<< 2) := by
  have hwired := getLsbD_addrToLines_wired Cfg.observed66 a (by decide)
  have hunwired := getLsbD_addrToLines_unwired Cfg.observed66 a
  apply BitVec.eq_of_getLsbD_eq
  intro j hj
  interval_cases j
  · simpa [Cfg.observed66] using hwired 0 (by decide)
  · simpa [Cfg.observed66] using hwired 1 (by decide)
  · simpa using hunwired 2 (by decide)
  · simpa using hunwired 3 (by decide)
  · simpa [Cfg.observed66] using hwired 2 (by decide)
  · simpa [Cfg.observed66] using hwired 3 (by decide)
  · simpa [Cfg.observed66] using hwired 4 (by decide)
  · simpa [Cfg.observed66] using hwired 5 (by decide)

/-- Settles O13: the formula bit by bit; the examples are its values. -/
theorem observedWiring : Obligations.ObservedWiring := by
  unfold Obligations.ObservedWiring
  exact ⟨rfl, fun a _ => addrToLines_observed66 a, by decide, by decide, by decide, by decide, by decide, by decide⟩

/-- Settles O18: the acceptance of INIT in `UNINIT`. -/
theorem initAccepted : Obligations.InitAccepted := by
  unfold Obligations.InitAccepted
  intro s hp
  exact ⟨_, exec_eq .init s, by rw [commandEdge_init_uninit Config.env s hp, edgeTo_seq]⟩

/-- Settles O22: the acceptance of a legal WRITE in `IDLE`. -/
theorem writeAccepted : Obligations.WriteAccepted := by
  unfold Obligations.WriteAccepted
  intro s r k v hp hfit
  refine ⟨_, exec_eq _ s, ?_⟩
  rw [commandEdge_ready _ _ s ((phaseReady_iff _).mpr (.inr hp)), edgeTo_seq]
  exact (acceptWrite_idle _ r k v hp).trans (if_pos hfit)

/-- Settles O30: the acceptance of a legal READ in `IDLE`. -/
theorem readAccepted : Obligations.ReadAccepted := by
  unfold Obligations.ReadAccepted
  intro s r k hp hfit
  refine ⟨_, exec_eq _ s, ?_⟩
  rw [commandEdge_ready _ _ s ((phaseReady_iff _).mpr (.inr hp)), edgeTo_seq]
  exact (acceptRead_idle _ r k hp).trans (if_pos hfit)

/-- In an `I_*` phase the machine makes the phase's pin action, whatever command is on the port. -/
theorem exec_phaseOfInit (i : Instr) (s : State) (h : phaseOfInit s.seq.phase = true) :
    exec i s = .next (edgeTo Config.env s (initAction s.seq)) := by
  rw [exec_eq, commandEdge_phaseOfInit Config.env i s h]

theorem exec_phaseOfWrite (i : Instr) (s : State) (h : phaseOfWrite s.seq.phase = true) :
    exec i s = .next (edgeTo Config.env s (writeAction Config.env.cfg s.seq)) := by
  rw [exec_eq, commandEdge_phaseOfWrite Config.env i s h]

theorem exec_phaseOfRead (i : Instr) (s : State) (h : phaseOfRead s.seq.phase = true) :
    exec i s = .next (edgeTo Config.env s
      (readAction Config.env.cfg (dqIn Config.env s.edge s.seq s.dev) s.seq)) := by
  rw [exec_eq, commandEdge_phaseOfRead Config.env i s h]

/-- Settles O19: each phase makes its own pin action; in `I_CTRL` strobes that are high stay high, so the device only ages. -/
theorem initPinActions : Obligations.InitPinActions := by
  unfold Obligations.InitPinActions
  refine ⟨fun s hp => ?_, fun s hp => ?_, fun s hp => ?_⟩
  · refine ⟨_, exec_phaseOfInit _ s (by rw [hp]; rfl), initAction_iCtrl hp, fun hr hk hw => ?_⟩
    rw [edgeTo_dev, initAction_iCtrl hp, react_still _ _ _ _ _ rfl hr.symm hk.symm hw.symm]
    exact ⟨rfl, rfl, rfl⟩
  · exact ⟨_, exec_phaseOfInit _ s (by rw [hp]; rfl), initAction_iAddr hp⟩
  · exact ⟨_, exec_phaseOfInit _ s (by rw [hp]; rfl), initAction_iData hp⟩

/-- Settles O23: each phase makes its own pin action. -/
theorem writePinActions : Obligations.WritePinActions := by
  unfold Obligations.WritePinActions
  intro s r k v
  have hexec := exec_phaseOfWrite (.write r k v) s
  exact ⟨fun hp => ⟨_, hexec (by rw [hp]; rfl), writeAction_wRow _ hp⟩,
    fun hp => ⟨_, hexec (by rw [hp]; rfl), writeAction_wRas _ hp⟩,
    fun hp => ⟨_, hexec (by rw [hp]; rfl), writeAction_wData _ hp⟩,
    fun hp => ⟨_, hexec (by rw [hp]; rfl), writeAction_wDrive _ hp⟩,
    fun hp => ⟨_, hexec (by rw [hp]; rfl), writeAction_wWe _ hp⟩,
    fun hp => ⟨_, hexec (by rw [hp]; rfl), writeAction_wCol _ hp⟩,
    fun hp => ⟨_, hexec (by rw [hp]; rfl), writeAction_wCas _ hp⟩⟩

/-- Settles O31: each phase makes its own action; the strobes rise together in `R_REL`, which empties both latches. -/
theorem readPinActions : Obligations.ReadPinActions := by
  unfold Obligations.ReadPinActions
  intro s r k
  have hexec := exec_phaseOfRead (.read r k) s
  refine ⟨fun hp => ⟨_, hexec (by rw [hp]; rfl), readAction_rRow _ _ hp⟩,
    fun hp => ⟨_, hexec (by rw [hp]; rfl), readAction_rRas _ _ hp⟩,
    fun hp => ⟨_, hexec (by rw [hp]; rfl), readAction_rCol _ _ hp⟩,
    fun hp => ⟨_, hexec (by rw [hp]; rfl), readAction_rCas _ _ hp⟩,
    fun hp => ⟨_, hexec (by rw [hp]; rfl), readAction_rSettle _ _ hp⟩,
    fun hp => ⟨_, hexec (by rw [hp]; rfl), readAction_rSample _ _ hp⟩,
    fun hp => ⟨_, hexec (by rw [hp]; rfl), readAction_rRel _ _ hp, fun hr hk hc => ?_⟩⟩
  rw [← commandEdge_phaseOfRead Config.env (.read r k) s (by rw [hp]; rfl), (commandEdge_rRel _ _ s hp hc hr hk).2]
  exact ⟨rfl, rfl⟩

end Sys2Proof.Machine
end

section
namespace Sys2Proof.Machine

/-! The device: its latches, its cells at a look, and its memory (R76 to R83). -/

@[simp] theorem disturb_rowL (b a : Seq) (d : Device) : (disturb b a d).rowL = d.rowL := by
  rcases disturb_cases b a d with h | ⟨key, -, h⟩ <;> rw [h]
  rw [forgetCell_rowL]

@[simp] theorem disturb_colL (b a : Seq) (d : Device) : (disturb b a d).colL = d.colL := by
  rcases disturb_cases b a d with h | ⟨key, -, h⟩ <;> rw [h]
  rw [forgetCell_colL]

/-- With driven control lines only `DevLatchRow` writes the row latch. -/
theorem react_rowL (e : Env) (n : Nat) (b a : Seq) (d : Device) (hc : a.ctrlOe = true) :
    (react e n b a d).rowL = (latchRow e n b a d).rowL := by
  simp [react, hc]

/-- With driven control lines only `DevLatchCol` writes the column latch, and it does not look at the row latch. -/
theorem react_colL (e : Env) (n : Nat) (b a : Seq) (d : Device) (hc : a.ctrlOe = true) :
    (react e n b a d).colL = (latchCol e n b a d).colL := by
  simp only [react, hc, if_true, disturb_colL, storeCell_colL, ageDevice_colL, latchCol]
  split <;> split <;> simp

section Latches
variable (e : Env) (n : Nat) {b a : Seq} (d : Device) (hc : a.ctrlOe = true)
include hc

theorem react_rowL_falling (hb : b.rasN = true) (ha : a.rasN = false) : (react e n b a d).rowL =
    some (if a.addrOe then rowOfLines e.cfg a.addrOut else maskBits e.cfg.rowBits (e.draw n .rowPins)) := by
  simp [react_rowL e n b a d hc, latchRow, hb, ha]

theorem react_rowL_rising (hb : b.rasN = false) (ha : a.rasN = true) : (react e n b a d).rowL = none := by
  simp [react_rowL e n b a d hc, latchRow, hb, ha]

theorem react_rowL_same (h : b.rasN = a.rasN) : (react e n b a d).rowL = d.rowL := by
  simp [react_rowL e n b a d hc, latchRow, h]

theorem react_colL_falling (hb : b.casN = true) (ha : a.casN = false) (hr : a.rasN = false) :
    (react e n b a d).colL =
      some (if a.addrOe then colOfLines e.cfg a.addrOut else maskBits e.cfg.colBits (e.draw n .colPins)) := by
  simp [react_colL e n b a d hc, latchCol, hb, ha, hr]

theorem react_colL_rising (hb : b.casN = false) (ha : a.casN = true) : (react e n b a d).colL = none := by
  simp [react_colL e n b a d hc, latchCol, hb, ha]

theorem react_colL_same (h : b.casN = a.casN) : (react e n b a d).colL = d.colL := by
  simp [react_colL e n b a d hc, latchCol, h]

end Latches

/-- Settles O40: the latch rules by what each strobe does. -/
theorem deviceLatches : Obligations.DeviceLatches := by
  unfold Obligations.DeviceLatches
  intro e n b a d hc
  exact ⟨react_rowL_falling e n d hc, react_rowL_rising e n d hc, react_rowL_same e n d hc,
    react_colL_falling e n d hc, react_colL_rising e n d hc, react_colL_same e n d hc⟩

/-- A stuck cell always reads as its stuck value (R83). -/
theorem cellValue_stuck (e : Env) (n : Nat) (d : Device) (key : Nat) (v : Byte) (h : Table.find e.stuck key = some v) :
    cellValue e n d key = maskW e.cfg v := by
  simp [cellValue, h]

theorem cellValue_notStuck (e : Env) (n : Nat) (d : Device) (key : Nat) (h : NotStuck e key) :
    cellValue e n d key = memValue e n d key := by
  simp [cellValue, h]

/-- A fresh cell holds the stored value (R82). -/
theorem memValue_fresh (e : Env) (n : Nat) (d : Device) (key : Nat) (v : Byte) (age : Nat)
    (hv : Memory.stored d.mem key = some v) (hage : Table.find d.ages key = some age) (hfresh : age < e.retention) :
    memValue e n d key = v := by
  simp [memValue, hv, hage, hfresh]

/-- From `retention` on a cell holds a draw (R82), whether it is listed or not. -/
theorem memValue_decayed (e : Env) (n : Nat) (d : Device) (key age : Nat)
    (hage : Table.find d.ages key = some age) (hold : e.retention ≤ age) :
    memValue e n d key = maskW e.cfg (e.draw n (.cell key)) := by
  cases hv : Memory.stored d.mem key <;> simp [memValue, hv, hage, Nat.not_lt.mpr hold]

theorem memValue_never_stored (e : Env) (n : Nat) (d : Device) (key : Nat) (h : Memory.stored d.mem key = none) :
    memValue e n d key = maskW e.cfg (e.draw n (.cell key)) := by
  simp [memValue, h]

/-- Settles O44: the cases of a look at a cell. -/
theorem cellContents : Obligations.CellContents := by
  unfold Obligations.CellContents
  intro e n d key
  exact ⟨cellValue_stuck e n d key, cellValue_notStuck e n d key, memValue_fresh e n d key, memValue_decayed e n d key,
    memValue_never_stored e n d key⟩

/-- Settles O45: such a step is a clock edge whose reaction is the floating device. -/
theorem floatingDeviceIsFree : Obligations.FloatingDeviceIsFree := by
  unfold Obligations.FloatingDeviceIsFree
  intro s t hst h hfloat
  rw [step_eq] at hst
  cases hst
  have hmem := stepIn_mem_floating Config.env s hfloat
  refine ⟨fun n key => memValue_of_mem_nil Config.env n _ key hmem, ?_⟩
  obtain ⟨q, hq⟩ := stepIn_eq_edgeTo Config.env s h
  rw [hq, edgeTo_seq] at hfloat
  rw [hq, edgeTo_dev, react_float _ _ _ _ _ hfloat]
  exact ⟨rfl, rfl⟩

/-- No step breaks the canonical form of the memory. -/
theorem stepIn_wf (e : Env) (s : State) (hwf : Memory.wf s.dev.mem) : Memory.wf (stepIn e s).dev.mem := by
  by_cases h : s.host.head? = some .reset
  · obtain ⟨rest, hs⟩ := List.head?_eq_some_iff.mp h
    rw [stepIn_reset e s rest hs]
    exact reset_wf
  · obtain ⟨q, hq⟩ := stepIn_eq_edgeTo e s h
    rw [hq, edgeTo_dev]
    exact react_wf _ _ _ _ _ hwf

/-- Settles O55: a reset empties the list of cells, and every other step is a reaction of the device. -/
theorem memoryFormKept : Obligations.MemoryFormKept := by
  unfold Obligations.MemoryFormKept
  intro s t hwf hst
  rw [step_eq] at hst
  cases hst
  exact stepIn_wf Config.env s hwf

end Sys2Proof.Machine
end

section
namespace Sys2Proof.Machine

/-! The invariant of the sequencer's registers: with the pins and the lines of the phase it asks for the two parts below (R39). -/

/-- `FAULT_CODE` and the idle or released pins go with `FAULT`, a response with `IDLE`. -/
structure FaultFollowsPhase (q : Seq) : Prop where
  faulted : q.phase = .fault →
    pinsOf q = idlePins ∧ (enablesOf q = (false, false, false) ∨ enablesOf q = (true, true, true))
  faultCode : (q.faultCode ≠ 0#3 ↔ q.phase = .fault) ∧ q.faultCode.toNat ≤ 4
  response : q.rspValid = true → q.phase = .idle

/-- The data registers hold indices of the grid and values of `W` bits, the address latch wired bits only, and the settle counter
its count. -/
structure ValuesInRange (c : Cfg) (q : Seq) : Prop where
  index : q.row.toNat < c.rows ∧ q.col.toNat < c.cols
  width : q.wdata.toNat < 2 ^ c.width.bits ∧ q.rdata.toNat < 2 ^ c.width.bits ∧ q.dqOut.toNat < 2 ^ c.width.bits
  unwired : ∀ j, q.addrOut.getLsbD j = true → ∃ port ∈ c.lineMap, port.val = j
  settle : q.phase = .rSettle → 1 ≤ q.cnt.toNat ∧ q.cnt.toNat ≤ c.settleCycles

theorem seqInv_iff (c : Cfg) (q : Seq) :
    SeqInv c q ↔ PinsFollowPhase c q ∧ LinesFollowPhase c q ∧ FaultFollowsPhase q ∧ ValuesInRange c q := by
  constructor
  · rintro ⟨pins, enables, faulted, faultCode, response, index, width, unwired, settle, rowShown, colShown, loaded⟩
    exact ⟨fun hp => ⟨pins hp, enables hp⟩, ⟨rowShown, colShown, loaded⟩, ⟨faulted, faultCode, response⟩,
      ⟨index, width, unwired, settle⟩⟩
  · rintro ⟨hpins, ⟨rowShown, colShown, loaded⟩, ⟨faulted, faultCode, response⟩, ⟨index, width, unwired, settle⟩⟩
    exact ⟨fun hp => (hpins hp).1, fun hp => (hpins hp).2, faulted, faultCode, response, index, width, unwired, settle,
      rowShown, colShown, loaded⟩

theorem reset_faultFollowsPhase : FaultFollowsPhase Seq.reset := ⟨nofun, by decide, nofun⟩

/-- A fault is raised from the levels of `UNINIT` or of `IDLE`. -/
theorem raiseFault_faultFollowsPhase {c : Cfg} {q : Seq} (f : Fault) (hr : phaseReady q.phase = true)
    (hq : PinsFollowPhase c q) : FaultFollowsPhase (raiseFault f q) := by
  obtain ⟨hpins, henables⟩ := hq (ne_fault_of_phaseReady hr)
  refine ⟨fun _ => ?_, ⟨⟨fun _ => rfl, fun _ => faultBits_ne_zero f⟩, by cases f <;> simp [faultBits]⟩, nofun⟩
  rcases (phaseReady_iff _).mp hr with hp | hp <;> rw [hp] at hpins henables
  · exact ⟨hpins, .inl henables⟩
  · exact ⟨hpins, .inr henables⟩

/-- A response that stands in `IDLE` stays there until a word is accepted, and only `R_REL`, which ends in `IDLE`, gives one. -/
theorem stepIn_response {e : Env} {s : State} (h : s.host.head? ≠ some .reset)
    (hq : s.seq.rspValid = true → s.seq.phase = .idle) (hrsp : (stepIn e s).seq.rspValid = true) :
    (stepIn e s).seq.phase = .idle := by
  rcases stepIn_seq_cases e s h with ⟨-, word, rest, -, hout⟩ | ⟨-, hadv⟩
  · simp [hout.frame.rspValid] at hrsp
  · rw [hadv] at hrsp ⊢
    by_cases hp : s.seq.phase = .rRel
    · rw [advanceSeq_of_phaseOfRead _ _ (by rw [hp]; rfl), readAction_rRel _ _ hp]
    · rw [advanceSeq_rspValid, if_neg hp] at hrsp
      simp [advanceSeq, hq hrsp]

theorem stepIn_faultFollowsPhase (e : Env) (s : State) (hpins : PinsFollowPhase e.cfg s.seq)
    (hq : FaultFollowsPhase s.seq) : FaultFollowsPhase (stepIn e s).seq := by
  by_cases h : s.host.head? = some .reset
  · obtain ⟨rest, hs⟩ := List.head?_eq_some_iff.mp h
    rw [stepIn_reset e s rest hs]
    exact reset_faultFollowsPhase
  by_cases hp : s.seq.phase = .fault
  · rw [stepIn_seq_of_fault e s hp h]
    exact hq
  rcases stepIn_fault_cases e s h with ⟨hr, -, f, hf⟩ | hnone
  · rw [hf]
    exact raiseFault_faultFollowsPhase f hr hpins
  · have hp' := hnone.phase_ne_fault hp
    refine ⟨fun hfault => absurd hfault hp', ?_, stepIn_response h hq.response⟩
    rw [hnone.1]
    exact ⟨hq.faultCode.1.trans (iff_of_false hp hp'), hq.faultCode.2⟩

theorem reset_valuesInRange (c : Cfg) : ValuesInRange c Seq.reset := by
  have hzero (n : Nat) : (0#8).toNat < 2 ^ n := Nat.two_pow_pos n
  exact ⟨⟨hzero _, hzero _⟩, ⟨hzero _, hzero _, hzero _⟩, by simp [Seq.reset], nofun⟩

/-- An acceptance latches operands that passed the checks (R104, R106). -/
theorem AcceptOutcome.valuesInRange {c : Cfg} {word : CmdWord} {q q' : Seq} (h : AcceptOutcome c word q q')
    (hq : ValuesInRange c q) : ValuesInRange c q' := by
  obtain ⟨index, width, unwired, -⟩ := hq
  cases h with
  | fault => exact ⟨index, width, unwired, nofun⟩
  | init => exact ⟨index, width, unwired, nofun⟩
  | read r k _ _ hfit => exact ⟨hfit, width, unwired, nofun⟩
  | write r k v _ _ hfit => exact ⟨⟨hfit.1, hfit.2.1⟩, ⟨hfit.2.2, width.2⟩, unwired, nofun⟩

/-- A pattern has set bits on wired ports only (R70). -/
theorem wired_of_getLsbD_addrToLines (c : Cfg) (a : Byte) (j : Nat) (h : (addrToLines c a).getLsbD j = true) :
    ∃ port ∈ c.lineMap, port.val = j := by
  by_contra hnone
  push Not at hnone
  simp [getLsbD_addrToLines_unwired c a j hnone] at h

/-- `R_SETTLE` is entered from `R_CAS` with cycles to settle, or from itself with the counter not at its last (R165, R166). -/
theorem advanceSeq_phase_rSettle (c : Cfg) (dq : Byte) (q : Seq) (h : (advanceSeq c dq q).phase = .rSettle) :
    (q.phase = .rCas ∧ c.settleCycles ≠ 0) ∨ (q.phase = .rSettle ∧ q.cnt ≠ 1#8) := by
  revert h
  cases hp : q.phase <;> simp [advanceSeq, initAction, writeAction, readAction, hp]

theorem advanceSeq_valuesInRange {c : Cfg} (hv : c.Valid) (dq : Byte) {q : Seq} (hq : ValuesInRange c q) :
    ValuesInRange c (advanceSeq c dq q) := by
  obtain ⟨index, ⟨hwdata, hrdata, hdqOut⟩, unwired, settle⟩ := hq
  constructor
  case index => rwa [advanceSeq_row, advanceSeq_col]
  case width =>
    rw [advanceSeq_wdata, advanceSeq_rdata, advanceSeq_dqOut]
    refine ⟨hwdata, ?_, ?_⟩
    · split
      · exact maskBits_lt _ _
      · exact hrdata
    · split
      · exact hwdata
      · exact hdqOut
  case unwired =>
    intro j
    rw [advanceSeq_addrOut]
    split
    · simp
    split
    · exact wired_of_getLsbD_addrToLines c _ j
    split
    · exact wired_of_getLsbD_addrToLines c _ j
    · exact unwired j
  case settle =>
    intro h
    rw [advanceSeq_cnt]
    rcases advanceSeq_phase_rSettle c dq q h with ⟨hp, hcycles⟩ | ⟨hp, hlast⟩
    · obtain ⟨-, -, -, -, hmax⟩ := hv
      rw [if_pos hp, BitVec.toNat_ofNat]
      omega
    · obtain ⟨hlow, hhigh⟩ := settle hp
      rw [if_neg (by simp [hp]), if_pos hp]
      bv_omega

theorem stepIn_valuesInRange {e : Env} (hv : e.cfg.Valid) (s : State) (hq : ValuesInRange e.cfg s.seq) :
    ValuesInRange e.cfg (stepIn e s).seq := by
  by_cases h : s.host.head? = some .reset
  · obtain ⟨rest, hs⟩ := List.head?_eq_some_iff.mp h
    rw [stepIn_reset e s rest hs]
    exact reset_valuesInRange e.cfg
  rcases stepIn_seq_cases e s h with ⟨-, word, rest, -, hout⟩ | ⟨-, hadv⟩
  · exact hout.valuesInRange hq
  · exact hadv ▸ advanceSeq_valuesInRange hv _ hq

theorem reset_seqInv (c : Cfg) : SeqInv c Seq.reset :=
  (seqInv_iff c _).mpr
    ⟨reset_pinsFollowPhase c, reset_linesFollowPhase c, reset_faultFollowsPhase, reset_valuesInRange c⟩

theorem stepIn_seqInv {e : Env} (hv : e.cfg.Valid) (s : State) (hs : SeqInv e.cfg s.seq) :
    SeqInv e.cfg (stepIn e s).seq := by
  obtain ⟨hpins, hlines, hfault, hvalues⟩ := (seqInv_iff _ _).mp hs
  exact (seqInv_iff _ _).mpr ⟨stepIn_pinsFollowPhase e s hpins, stepIn_linesFollowPhase e s hlines,
    stepIn_faultFollowsPhase e s hpins hfault, stepIn_valuesInRange hv s hvalues⟩

/-! The four lines under the invariant, by the phase (R39, R152). -/

/-- The four lines are those of the phase, in `FAULT` too. -/
theorem SeqInv.pinsOf_eq {c : Cfg} {q : Seq} (hq : SeqInv c q) : pinsOf q = phasePins c q.phase := by
  by_cases hp : q.phase = .fault
  · rw [hp]
    exact (hq.faulted hp).1
  · exact hq.pins hp

theorem phasePins_cas_low {c : Cfg} {p : Phase} (h : (phasePins c p).cas = false) : (phasePins c p).ras = false := by
  revert h
  cases p
  case wX2 | wX3 => simp only [phasePins]; split <;> simp
  all_goals simp [phasePins, idlePins]

/-- RAS is low only inside a READ or a WRITE, where all lines are driven. -/
theorem phaseEnables_of_ras_low {c : Cfg} {p : Phase} (h : (phasePins c p).ras = false) :
    phaseEnables p = (true, true, true) := by
  revert h
  cases p <;> simp [phasePins, idlePins, phaseEnables]

theorem phasePins_dq_driven {c : Cfg} {p : Phase} (h : (phasePins c p).dq = true) :
    p ∈ [Phase.wWe, .wCol, .wCas, .wX1, .wX2, .wX3] := by
  revert h
  cases p <;> simp [phasePins, idlePins]

theorem phasePins_we_low {c : Cfg} {p : Phase} (h : (phasePins c p).we = false) :
    p ∈ [Phase.wCol, .wCas, .wX1, .wX2, .wX3] := by
  revert h
  cases p <;> simp [phasePins, idlePins]

theorem phasePins_of_phaseOfRead {c : Cfg} {p : Phase} (h : phaseOfRead p = true) :
    (phasePins c p).dq = false ∧ (phasePins c p).we = true := by
  revert h
  cases p <;> simp [phasePins, idlePins, phaseOfRead]

/-- CAS low with WE high and the data lines driven are the levels of one phase, under one order (R153). -/
theorem phasePins_contending {c : Cfg} {p : Phase} (hk : (phasePins c p).cas = false) (hw : (phasePins c p).we = true)
    (hd : (phasePins c p).dq = true) : p = .wX2 ∧ OrderEZS c := by
  revert hk hw hd
  cases p
  case wX2 | wX3 => simp only [phasePins]; split <;> simp_all [OrderEZS, ReleaseOrder]
  all_goals simp [phasePins, idlePins]

section Levels
variable {c : Cfg} {q : Seq} (hq : SeqInv c q)
include hq

theorem SeqInv.rasN_of_casN_low (h : q.casN = false) : q.rasN = false := by
  have hpins := hq.pinsOf_eq
  have hras : (pinsOf q).ras = false := hpins ▸ phasePins_cas_low (hpins ▸ h)
  exact hras

theorem SeqInv.enables_of_rasN_low (h : q.rasN = false) : q.ctrlOe = true ∧ q.addrOe = true := by
  have hpins := hq.pinsOf_eq
  have henables := phaseEnables_of_ras_low (c := c) (p := q.phase) (hpins ▸ h)
  have hp : q.phase ≠ .fault := by
    intro hp
    rw [hp] at hpins
    obtain ⟨hras, -⟩ := Pins.mk.inj hpins
    simp [h] at hras
  rw [← hq.enables hp] at henables
  simp only [enablesOf, Prod.mk.injEq] at henables
  exact ⟨henables.1, henables.2.1⟩

/-- Where a word can be accepted both strobes are high. -/
theorem SeqInv.not_ready_of_rasN_low (h : q.rasN = false) : phaseReady q.phase = false := by
  have hpins := hq.pinsOf_eq
  by_contra hr
  rcases (phaseReady_iff _).mp (Bool.eq_true_of_not_eq_false hr) with hp | hp <;>
    · rw [hp] at hpins
      obtain ⟨hras, -⟩ := Pins.mk.inj hpins
      simp [h] at hras

theorem SeqInv.contending (hk : q.casN = false) (hw : q.weN = true) (hd : q.dqOe = true) :
    q.phase = .wX2 ∧ OrderEZS c := by
  have hpins := hq.pinsOf_eq
  exact phasePins_contending (hpins ▸ hk) (hpins ▸ hw) (hpins ▸ hd)

end Levels

end Sys2Proof.Machine
end

section
namespace Sys2Proof.Machine

/-! The device in one step of the machine: its latches, its cells and the mark, from a state that meets the invariant. -/

/-- Where no word can be accepted a step is the edge of any command, which is not looked at (R104). -/
theorem stepIn_eq_commandEdge (e : Env) (i : Instr) (s : State) (hb : phaseReady s.seq.phase = false)
    (h : s.host.head? ≠ some .reset) : stepIn e s = { commandEdge e i s with host := s.host.tail } := by
  rw [stepIn_of_not_ready e s hb h, commandEdge_busy e i s hb]
  rfl

/-- In a step that is no reset the device reacts to the registers the step ends with. -/
theorem stepIn_dev (e : Env) (s : State) (h : s.host.head? ≠ some .reset) :
    (stepIn e s).dev = react e s.edge s.seq (stepIn e s).seq s.dev := by
  obtain ⟨q, hq⟩ := stepIn_eq_edgeTo e s h
  rw [hq]
  rfl

/-- Where no word can be accepted the operands stay as they were latched (R22). -/
theorem stepIn_operands_kept (e : Env) (s : State) (hb : phaseReady s.seq.phase = false)
    (h : s.host.head? ≠ some .reset) : (stepIn e s).seq.row = s.seq.row ∧ (stepIn e s).seq.col = s.seq.col := by
  rcases stepIn_seq_cases e s h with ⟨hr, -⟩ | ⟨-, hadv⟩
  · simp [hb] at hr
  · rw [hadv, advanceSeq_row, advanceSeq_col]
    exact ⟨rfl, rfl⟩

section FromInv
variable {e : Env} {s : State} (hs : Inv e s) (h : s.host.head? ≠ some .reset)
include hs

include h in
/-- While RAS is low after the step the row latch holds `ROW`: latched in this step from the lines, or before (R77). -/
theorem stepIn_rowOpen (hv : e.cfg.Valid) (hlow : (stepIn e s).seq.rasN = false) :
    (stepIn e s).dev.rowL = some (stepIn e s).seq.row := by
  have hctrl := ((stepIn_seqInv hv s hs.seq).enables_of_rasN_low hlow).1
  rw [stepIn_dev e s h]
  cases hb : s.seq.rasN with
  | true =>
    have hp := (stepIn_activatesByPhase e s h).ras hb hlow
    obtain ⟨p, hseq⟩ := stepIn_seq_rasFalls e s hp h
    rw [react_rowL_falling e s.edge s.dev hctrl hb hlow, hseq, if_pos (addrOe_before_ras (.inr hs) hp),
      hs.seq.rowShown hp, rowOfLines_addrToLines e.cfg _ hv hs.seq.index.1]
  | false =>
    rw [react_rowL_same e s.edge s.dev hctrl (hb.trans hlow.symm), hs.dev.rowOpen hb,
      (stepIn_operands_kept e s (hs.seq.not_ready_of_rasN_low hb) h).1]

include h in
/-- While CAS is low after the step the column latch holds `COL` (R78). -/
theorem stepIn_colOpen (hv : e.cfg.Valid) (hlow : (stepIn e s).seq.casN = false) :
    (stepIn e s).dev.colL = some (stepIn e s).seq.col := by
  have hrlow := (stepIn_seqInv hv s hs.seq).rasN_of_casN_low hlow
  have hctrl := ((stepIn_seqInv hv s hs.seq).enables_of_rasN_low hrlow).1
  rw [stepIn_dev e s h]
  cases hb : s.seq.casN with
  | true =>
    have hp := (stepIn_activatesByPhase e s h).cas hb hlow
    obtain ⟨n, p, hseq⟩ := stepIn_seq_casFalls e s hp h
    rw [react_colL_falling e s.edge s.dev hctrl hb hlow hrlow, hseq, if_pos (addrOe_rasN_before_cas (.inr hs) hp).1,
      hs.seq.colShown hp, colOfLines_addrToLines e.cfg _ hv hs.seq.index.2]
  | false =>
    have hnot := hs.seq.not_ready_of_rasN_low (hs.seq.rasN_of_casN_low hb)
    rw [react_colL_same e s.edge s.dev hctrl (hb.trans hlow.symm), hs.dev.colOpen hb,
      (stepIn_operands_kept e s hnot h).2]

include h in
/-- None of the strobe sequences of R90 occurs. -/
theorem stepIn_not_oddStrobe : oddStrobe s.seq (stepIn e s).seq = false := by
  have hphase := stepIn_activatesByPhase e s h
  have hcas : ¬ (s.seq.casN = true ∧ (stepIn e s).seq.casN = false ∧ (stepIn e s).seq.rasN = true) := by
    rintro ⟨hb, ha, hr⟩
    have hp := hphase.cas hb ha
    obtain ⟨n, p, hseq⟩ := stepIn_seq_casFalls e s hp h
    rw [hseq, (addrOe_rasN_before_cas (.inr hs) hp).2] at hr
    cases hr
  have hras : ¬ (s.seq.rasN = true ∧ (stepIn e s).seq.rasN = false ∧ s.seq.casN = false) := by
    rintro ⟨hb, -, hk⟩
    simp [hs.seq.rasN_of_casN_low hk] at hb
  have hwe : ¬ (s.seq.weN = true ∧ (stepIn e s).seq.weN = false ∧ s.seq.casN = false) := by
    rintro ⟨hb, ha, hk⟩
    obtain ⟨-, hhigh, -, -⟩ := Pins.mk.inj (levels_of_inRun (.inr hs) (hphase.we hb ha) nofun).1
    simp [hk] at hhigh
  simp only [oddStrobe, Bool.or_eq_false_iff, Bool.and_eq_false_imp, Bool.and_eq_true, Bool.not_eq_true',
    Bool.not_eq_false']
  refine ⟨⟨fun hcond => ?_, fun hcond => ?_⟩, fun hcond => ?_⟩
  · exact Bool.eq_false_of_not_eq_true fun hr => hcas ⟨hcond.1, hcond.2, hr⟩
  · exact Bool.eq_true_of_not_eq_false fun hk => hras ⟨hcond.1, hcond.2, hk⟩
  · exact Bool.eq_true_of_not_eq_false fun hk => hwe ⟨hcond.1, hcond.2, hk⟩

include h in
/-- Only the step of `W_CAS` stores. -/
theorem stepIn_phase_of_store (hb : s.seq.casN = true) (ha : (stepIn e s).seq.casN = false)
    (hw : (stepIn e s).seq.weN = false) : s.seq.phase = .wCas := by
  have hphase := stepIn_activatesByPhase e s h
  refine (hphase.cas hb ha).resolve_right fun hp => ?_
  obtain ⟨-, -, hhigh, -⟩ := Pins.mk.inj (levels_of_inRun (.inr hs) hp nofun).1
  have hweWe := hphase.we hhigh hw
  simp [hp] at hweWe

end FromInv

/-- A reaction with driven control lines, without a store and without a strobe sequence of R90, only makes the cells older. -/
theorem react_cells_kept (e : Env) (n : Nat) (b a : Seq) (d : Device) (hc : a.ctrlOe = true)
    (hstore : ¬ (b.casN = true ∧ a.casN = false ∧ a.weN = false)) (hodd : oddStrobe b a = false) :
    (react e n b a d).mem = d.mem ∧ (react e n b a d).ages = ageAll d.ages := by
  have hnone (x : Device) : storeCell e n b a x = x := by
    unfold storeCell
    rw [if_neg]
    simp only [Bool.and_eq_true, Bool.not_eq_true']
    rintro ⟨⟨⟨hb, ha⟩, -⟩, hw⟩
    exact hstore ⟨hb, ha, hw⟩
  simp [react, hc, disturb, hodd, hnone]

theorem ages_nil_of_mem_nil {e : Env} {s : State} (hs : Inv e s) (hmem : s.dev.mem = []) : s.dev.ages = [] := by
  have hkeys := hs.dev.aged
  rwa [hmem, List.map_nil, List.map_eq_nil_iff] at hkeys

/-- Every step but that of `W_CAS` and a reset leaves the cells alone and makes them one edge older (R37, R62, R68). -/
theorem stepIn_cells_kept {e : Env} {s : State} (hs : Inv e s) (h : s.host.head? ≠ some .reset)
    (hp : s.seq.phase ≠ .wCas) :
    (stepIn e s).dev.mem = s.dev.mem ∧ (stepIn e s).dev.ages = ageAll s.dev.ages := by
  rw [stepIn_dev e s h]
  cases hc : (stepIn e s).seq.ctrlOe with
  | false =>
    have hbefore : s.seq.ctrlOe = false := by
      by_contra hne
      have hon := ((stepIn_linesByPhase e s h).ctrlOe (by simp_all)).2
      simp [hc] at hon
    have hmem := hs.dev.floating hbefore
    rw [react_float _ _ _ _ _ hc, hmem, ages_nil_of_mem_nil hs hmem]
    exact ⟨rfl, rfl⟩
  | true =>
    exact react_cells_kept _ _ _ _ _ hc (fun ⟨hb, ha, hw⟩ => hp (stepIn_phase_of_store hs h hb ha hw))
      (stepIn_not_oddStrobe hs h)

/-- The edge of `W_CAS` stores `WDATA` in the cell of `ROW` and `COL` (R147). -/
theorem commandEdge_wCas_of_inv {e : Env} {s : State} (hv : e.cfg.Valid) (hs : Inv e s) (hp : s.seq.phase = .wCas)
    (i : Instr) : (commandEdge e i s).seq = { s.seq with casN := false, phase := .wX1 } ∧
      (commandEdge e i s).dev = storeAt (cellKey s.seq.row s.seq.col) s.seq.wdata
        (ageDevice { s.dev with colL := some s.seq.col }) := by
  obtain ⟨hpins, henables⟩ := levels_of_inRun (.inr hs) hp nofun
  simp only [enablesOf, phaseEnables, Prod.mk.injEq] at henables
  obtain ⟨hctrl, haddr, -⟩ := henables
  obtain ⟨hras, -⟩ := Pins.mk.inj hpins
  have hedge := commandEdge_wCas e i s _ hp hctrl haddr hpins (hs.dev.rowOpen hras)
  rwa [hs.seq.colShown (.inl hp), colOfLines_addrToLines e.cfg _ hv hs.seq.index.2,
    hs.seq.loaded (by rw [hp]; rfl)] at hedge

theorem stepIn_cells_wCas {e : Env} {s : State} (hv : e.cfg.Valid) (hs : Inv e s) (h : s.host.head? ≠ some .reset)
    (hp : s.seq.phase = .wCas) :
    (stepIn e s).dev.mem = Table.put s.dev.mem (cellKey s.seq.row s.seq.col) s.seq.wdata ∧
      (stepIn e s).dev.ages = Table.put (ageAll s.dev.ages) (cellKey s.seq.row s.seq.col) 0 := by
  rw [stepIn_eq_commandEdge e .init s (by rw [hp]; rfl) h]
  dsimp only
  rw [(commandEdge_wCas_of_inv hv hs hp .init).2]
  exact ⟨rfl, rfl⟩

/-! The invariant of the whole machine (R39). -/

theorem reset_devInv (c : Cfg) : DevInv c Seq.reset Device.reset :=
  ⟨nofun, nofun, fun _ => rfl, reset_wf, rfl, nofun⟩

theorem resetEdge_inv {e : Env} {s : State} (hs : Inv e s) : Inv e (resetEdge s) :=
  ⟨reset_seqInv e.cfg, reset_devInv e.cfg, hs.mark⟩

theorem stepIn_keys {e : Env} {s : State} (hv : e.cfg.Valid) (hs : Inv e s) (h : s.host.head? ≠ some .reset) :
    (stepIn e s).dev.ages.map Prod.fst = (stepIn e s).dev.mem.map Prod.fst := by
  by_cases hp : s.seq.phase = .wCas
  · obtain ⟨hmem, hages⟩ := stepIn_cells_wCas hv hs h hp
    rw [hmem, hages]
    exact keys_put _ _ _ _ _ (by rw [keys_ageAll, hs.dev.aged])
  · obtain ⟨hmem, hages⟩ := stepIn_cells_kept hs h hp
    rw [hmem, hages, keys_ageAll, hs.dev.aged]

theorem stepIn_cells_in_grid {e : Env} {s : State} (hv : e.cfg.Valid) (hs : Inv e s)
    (h : s.host.head? ≠ some .reset) : ∀ cell ∈ (stepIn e s).dev.mem,
      (∃ r k : Byte, r.toNat < e.cfg.rows ∧ k.toNat < e.cfg.cols ∧ cell.1 = cellKey r k) ∧
        cell.2.toNat < 2 ^ e.cfg.width.bits := by
  by_cases hp : s.seq.phase = .wCas
  · intro cell hcell
    rw [(stepIn_cells_wCas hv hs h hp).1] at hcell
    rcases Table.mem_put _ _ _ _ hcell with rfl | hold
    · exact ⟨⟨_, _, hs.seq.index.1, hs.seq.index.2, rfl⟩, hs.seq.width.1⟩
    · exact hs.dev.cells cell hold
  · rw [(stepIn_cells_kept hs h hp).1]
    exact hs.dev.cells

theorem stepIn_devInv {e : Env} {s : State} (hv : e.cfg.Valid) (hs : Inv e s) (h : s.host.head? ≠ some .reset) :
    DevInv e.cfg (stepIn e s).seq (stepIn e s).dev :=
  ⟨stepIn_rowOpen hs h hv, stepIn_colOpen hs h hv, stepIn_mem_floating e s, stepIn_wf e s hs.dev.canonical,
    stepIn_keys hv hs h, stepIn_cells_in_grid hv hs h⟩

/-- Contention comes with one phase and one order only (R153). -/
theorem SeqInv.orderEZS_of_contends {c : Cfg} {q : Seq} {d : Device} (hq : SeqInv c q)
    (h : (∃ key, drivenCell q d = some key) ∧ q.dqOe = true) : OrderEZS c := by
  obtain ⟨⟨key, hkey⟩, hd⟩ := h
  obtain ⟨-, -, hk, hw, -⟩ := (drivenCell_eq_some_iff q d key).mp hkey
  exact (hq.contending hk hw hd).2

/-- Every step keeps the invariant, in every valid deployment. -/
theorem stepIn_inv {e : Env} {s : State} (hv : e.cfg.Valid) (hs : Inv e s) : Inv e (stepIn e s) := by
  by_cases h : s.host.head? = some .reset
  · obtain ⟨rest, hhost⟩ := List.head?_eq_some_iff.mp h
    rw [stepIn_reset e s rest hhost]
    exact resetEdge_inv ⟨hs.seq, hs.dev, hs.mark⟩
  · have hseq := stepIn_seqInv hv s hs.seq
    refine ⟨hseq, stepIn_devInv hv hs h, fun hmark => ?_⟩
    exact ((stepIn_contention_iff e s h).mp hmark).elim hs.mark hseq.orderEZS_of_contends

theorem runIn_inv {e : Env} (hv : e.cfg.Valid) (n : Nat) (s : State) (hs : Inv e s) : Inv e (runIn e n s) := by
  induction n generalizing s with
  | zero => exact hs
  | succ n ih => exact ih (stepIn e s) (stepIn_inv hv hs)

/-- The state a run starts from meets the invariant: no cell is listed, and no strobe is low. -/
theorem FromReset.inv {s : State} (hs : FromReset s) (e : Env) : Inv e s := by
  obtain ⟨hseq, hmem, hages, hmark⟩ := hs
  refine ⟨hseq ▸ reset_seqInv e.cfg, ?_, by simp [hmark]⟩
  rw [hseq]
  exact ⟨nofun, nofun, fun _ => hmem, hmem ▸ reset_wf, by rw [hmem, hages]; rfl, by simp [hmem]⟩

theorem inv_of_inRun {e : Env} {s : State} (hs : InRun e s) : Inv e s := by
  rcases hs with ⟨hv, s₀, n, hfrom, rfl⟩ | hinv
  · exact runIn_inv hv n s₀ (hfrom.inv e)
  · exact hinv

/-- Settles O52: the reset state is one that a run starts from. -/
theorem resetMeetsInvariant : Obligations.ResetMeetsInvariant := by
  unfold Obligations.ResetMeetsInvariant
  exact FromReset.inv ⟨rfl, rfl, rfl, rfl⟩ Config.env

/-- Settles O53: the registers part by part, the device by its latches, its memory and the one store, the mark by the levels of
contention. -/
theorem stepKeepsInvariant : Obligations.StepKeepsInvariant := by
  unfold Obligations.StepKeepsInvariant
  intro s t hs hst
  rw [step_eq] at hst
  cases hst
  exact stepIn_inv config_valid hs

/-- Settles O54: the clauses are read off the levels, the enables and the parts of the invariant. -/
theorem invariantGivesR39 : Obligations.InvariantGivesR39 := by
  unfold Obligations.InvariantGivesR39
  refine ⟨fun e s hv hreached => inv_of_inRun (.inl ⟨hv, hreached⟩), fun e s hs => ?_⟩
  obtain ⟨hq, -, -⟩ := hs
  have hpins := hq.pinsOf_eq
  have henables := hq.enables
  refine ⟨fun hp => ?_, fun hp => ?_, fun hd => phasePins_dq_driven (c := e.cfg) ?_,
    fun hw => phasePins_we_low (c := e.cfg) ?_, fun hp => ?_, hq.rasN_of_casN_low, fun hp => ?_, fun j hj => ?_⟩
  · simp_all [pinsOf, enablesOf, phasePins, phaseEnables, idlePins]
  · simp_all [pinsOf, enablesOf, phasePins, phaseEnables, idlePins]
  · rw [← hpins]
    exact hd
  · rw [← hpins]
    exact hw
  · obtain ⟨hd, hw⟩ := phasePins_of_phaseOfRead (c := e.cfg) hp
    rw [← hpins] at hd hw
    exact ⟨hd, hw⟩
  · obtain ⟨hidle, hreleased | hdriven⟩ := hq.faulted hp
    · simp_all [pinsOf, enablesOf, idlePins]
    · simp_all [pinsOf, enablesOf, idlePins]
  · rw [Bool.eq_false_iff]
    intro hbit
    obtain ⟨port, hmem, hport⟩ := hq.unwired j hbit
    exact hj port hmem hport

end Sys2Proof.Machine
end

section
namespace Sys2Proof.Machine

/-! One edge with a command on the port, from a state that meets the invariant: the frames of the three commands. -/

/-- The edge of a command does not look at the host's moves. -/
theorem commandEdge_withHost (e : Env) (i : Instr) (s : State) (moves : List HostMove) :
    commandEdge e i { s with host := moves } = { commandEdge e i s with host := moves } := by
  cases hr : phaseReady s.seq.phase with
  | false =>
    rw [commandEdge_busy e i s hr, commandEdge_busy e i { s with host := moves } hr]
    rfl
  | true =>
    rw [commandEdge_ready e i s hr, commandEdge_ready e i { s with host := moves } hr]
    rfl

/-- The edge of a command is the step of the host that presents the command's word. -/
theorem stepIn_present (e : Env) (i : Instr) (s : State) (moves : List HostMove) :
    stepIn e { s with host := .present (encode i) :: moves } = { commandEdge e i s with host := moves } := by
  rw [stepIn_command e _ _ moves i rfl (decode_encode i), ← commandEdge_withHost]

theorem commandEdge_outcome (e : Env) (i : Instr) (s : State) (hr : phaseReady s.seq.phase = true) :
    AcceptOutcome e.cfg (encode i) s.seq (commandEdge e i s).seq := by
  have hstep := stepIn_presented_ready e { s with host := [.present (encode i)] } (encode i) [] rfl hr
  rw [stepIn_present] at hstep
  have hseq : (commandEdge e i s).seq = acceptWord e.cfg (encode i) s.seq := congrArg State.seq hstep
  exact hseq ▸ acceptWord_outcome e.cfg (encode i) hr

theorem commandEdge_seq_busy (e : Env) (i : Instr) (s : State) (hb : phaseReady s.seq.phase = false) :
    (commandEdge e i s).seq = advanceSeq e.cfg (dqIn e s.edge s.seq s.dev) s.seq := by
  rw [commandEdge_busy e i s hb, quietEdge, edgeTo_seq]

@[simp] theorem commandEdge_host (e : Env) (i : Instr) (s : State) : (commandEdge e i s).host = s.host := by
  obtain ⟨q, hq⟩ := commandEdge_eq_edgeTo e i s
  rw [hq, edgeTo_host]

@[simp] theorem commandEdge_edge (e : Env) (i : Instr) (s : State) : (commandEdge e i s).edge = s.edge + 1 := by
  obtain ⟨q, hq⟩ := commandEdge_eq_edgeTo e i s
  rw [hq, edgeTo_edge]

/-- The invariant does not look at the host's moves. -/
theorem Inv.withHost {e : Env} {s : State} (hs : Inv e s) (moves : List HostMove) : Inv e { s with host := moves } :=
  ⟨hs.seq, hs.dev, hs.mark⟩

/-- Every edge but that of `W_CAS` keeps the cells and makes them one edge older. -/
theorem commandEdge_cells_kept {e : Env} {s : State} (hs : Inv e s) (i : Instr) (hp : s.seq.phase ≠ .wCas) :
    MemKept s (commandEdge e i s) ∧ AgedBy 1 s (commandEdge e i s) := by
  have hcells := stepIn_cells_kept (hs.withHost [.present (encode i)]) nofun hp
  rw [stepIn_present] at hcells
  obtain ⟨hmem, hages⟩ := hcells
  dsimp only at hmem hages
  exact ⟨fun key => by rw [hmem], fun key => by rw [hages, find_ageAll]⟩

/-- `W_X2` is entered from `W_X1` only (R148). -/
theorem advanceSeq_phase_wX2 (c : Cfg) (dq : Byte) (q : Seq) (h : (advanceSeq c dq q).phase = .wX2) :
    q.phase = .wX1 := by
  revert h
  cases hp : q.phase <;> simp [advanceSeq, initAction, writeAction, readAction, hp, ite_eq_iff]

theorem AcceptOutcome.phase_ne_wX2 {c : Cfg} {word : CmdWord} {q q' : Seq} (h : AcceptOutcome c word q q') :
    q'.phase ≠ .wX2 := by
  cases h <;> simp

/-- Only the step of `W_X1` under EZS can record contention (R153). -/
theorem stepIn_contention_eq {e : Env} {s : State} (hv : e.cfg.Valid) (hs : Inv e s)
    (h : ¬ (s.seq.phase = .wX1 ∧ OrderEZS e.cfg)) : (stepIn e s).contention = s.contention := by
  by_cases hreset : s.host.head? = some .reset
  · obtain ⟨rest, hhost⟩ := List.head?_eq_some_iff.mp hreset
    rw [stepIn_reset e s rest hhost]
    rfl
  rw [Bool.eq_iff_iff, stepIn_contention_iff e s hreset, or_iff_left_iff_imp]
  rintro ⟨⟨key, hkey⟩, hd⟩
  obtain ⟨-, -, hk, hw, -⟩ := (drivenCell_eq_some_iff _ _ key).mp hkey
  obtain ⟨hp', horder⟩ := (stepIn_seqInv hv s hs.seq).contending hk hw hd
  rcases stepIn_seq_cases e s hreset with ⟨-, word, rest, -, hout⟩ | ⟨-, hadv⟩
  · exact absurd hp' hout.phase_ne_wX2
  · exact absurd ⟨advanceSeq_phase_wX2 _ _ _ (hadv ▸ hp'), horder⟩ h

theorem commandEdge_contention_eq {e : Env} {s : State} (hv : e.cfg.Valid) (hs : Inv e s) (i : Instr)
    (hp : s.seq.phase ≠ .wX1) : (commandEdge e i s).contention = s.contention := by
  have hmark := stepIn_contention_eq hv (hs.withHost [.present (encode i)]) (fun h => hp h.1)
  rwa [stepIn_present] at hmark

/-- A phase of a command, or a ready one, is not a phase of another kind. -/
theorem ne_of_ready_or {ofCommand : Phase → Bool} {p q : Phase} (hp : phaseReady p = true ∨ ofCommand p = true)
    (hq : (phaseReady q || ofCommand q) = false) : p ≠ q := by
  rintro rfl
  simp_all

theorem not_phaseReady_of_phaseOfInit {p : Phase} (h : phaseOfInit p = true) : phaseReady p = false := by
  revert h
  cases p <;> decide

/-- No phase of READ moves WE or the drive of the data lines. -/
theorem readAction_weN_dqOe (c : Cfg) (dq : Byte) (q : Seq) :
    (readAction c dq q).weN = q.weN ∧ (readAction c dq q).dqOe = q.dqOe := by
  unfold readAction
  split <;> exact ⟨rfl, rfl⟩

/-- Settles O21: an acceptance of INIT writes `RSP_VALID`, `FAULT_CODE` and `PHASE` only, a phase of INIT what its action writes;
no phase of INIT is that of the store or of contention. -/
theorem initFrame : Obligations.InitFrame := by
  unfold Obligations.InitFrame
  intro s t hrun hp hst
  rw [exec_eq] at hst
  cases hst
  have hs := inv_of_inRun hrun
  obtain ⟨hmem, hages⟩ := commandEdge_cells_kept hs .init (ne_of_ready_or hp rfl)
  have hmark := commandEdge_contention_eq config_valid hs .init (ne_of_ready_or hp rfl)
  rcases hp with hr | hi
  · have hout := commandEdge_outcome Config.env .init s hr
    obtain ⟨hpins, henables, haddr, hdq, hrdata, hcnt, -, hcode⟩ := hout.frame
    obtain ⟨hctrl, haddrOe, hinited⟩ := (enablesOf_eq_iff _ _).mp henables
    obtain ⟨hrow, hcol, hwdata⟩ := hout.operands_of_init (decode_encode .init)
    exact ⟨hrow, hcol, hwdata, hrdata, hcnt, hdq, hcode, fun _ => hinited, by simp [hr],
      fun _ => ⟨hpins, hctrl, haddrOe, haddr⟩, hmem, hages, commandEdge_host _ _ s, hmark⟩
  · have hb := not_phaseReady_of_phaseOfInit hi
    have hne {q : Phase} (hq : (phaseReady q || phaseOfInit q) = false) : s.seq.phase ≠ q :=
      ne_of_ready_or (.inr hi) hq
    rw [commandEdge_seq_busy _ _ s hb, advanceSeq_row, advanceSeq_col, advanceSeq_wdata, advanceSeq_faultCode,
      advanceSeq_rdata, if_neg (hne rfl), advanceSeq_cnt, if_neg (hne rfl), if_neg (hne rfl), advanceSeq_dqOut,
      if_neg (hne rfl), advanceSeq_rspValid, if_neg (hne rfl)]
    exact ⟨rfl, rfl, rfl, rfl, rfl, rfl, fun _ => rfl, fun h => by rw [advanceSeq_inited, if_neg h], fun _ => rfl,
      by simp [hb], hmem, hages, commandEdge_host _ _ s, hmark⟩

/-- Settles O37: as the frame of INIT; READ moves neither WE nor the drive of the data lines, and no phase of READ is that of the
store or of contention. -/
theorem readFrame : Obligations.ReadFrame := by
  unfold Obligations.ReadFrame
  intro s t r k hrun hp hst
  rw [exec_eq] at hst
  cases hst
  have hs := inv_of_inRun hrun
  obtain ⟨hmem, hages⟩ := commandEdge_cells_kept hs (.read r k) (ne_of_ready_or hp rfl)
  have hmark := commandEdge_contention_eq config_valid hs (.read r k) (ne_of_ready_or hp rfl)
  rcases hp with hr | hread
  · have hout := commandEdge_outcome Config.env (.read r k) s hr
    obtain ⟨hpins, henables, haddr, hdq, hrdata, hcnt, -, hcode⟩ := hout.frame
    obtain ⟨hctrl, haddrOe, hinited⟩ := (enablesOf_eq_iff _ _).mp henables
    obtain ⟨-, -, hwe, hdqOe⟩ := Pins.mk.inj hpins
    exact ⟨hout.wdata_of_read (decode_encode _), hinited, hwe, hctrl, haddrOe, hdq, hdqOe, hcode,
      fun _ => ⟨hpins, haddr, hcnt⟩, by simp [hr], by simp [hr], fun _ => hrdata, fun _ _ => hcnt, fun _ _ => haddr,
      hmem, hages, commandEdge_host _ _ s, hmark⟩
  · have hb := not_phaseReady_of_phaseOfRead hread
    have hne {q : Phase} (hq : (phaseReady q || phaseOfRead q) = false) : s.seq.phase ≠ q :=
      ne_of_ready_or (.inr hread) hq
    have hread' := advanceSeq_of_phaseOfRead Config.env.cfg (dqIn Config.env s.edge s.seq s.dev) hread
    obtain ⟨hwe, hdqOe⟩ := readAction_weN_dqOe Config.env.cfg (dqIn Config.env s.edge s.seq s.dev) s.seq
    rw [← hread'] at hwe hdqOe
    rw [commandEdge_seq_busy _ _ s hb, advanceSeq_row, advanceSeq_col, advanceSeq_wdata, advanceSeq_faultCode, hwe, hdqOe,
      advanceSeq_inited, if_neg (hne rfl), advanceSeq_ctrlOe, if_neg (hne rfl), advanceSeq_addrOe, if_neg (hne rfl),
      advanceSeq_dqOut, if_neg (hne rfl)]
    refine ⟨rfl, rfl, rfl, rfl, rfl, rfl, rfl, fun _ => rfl, by simp [hb], fun _ => ⟨rfl, rfl⟩, fun _ hrel => ?_,
      fun hsample => ?_, fun hcas hsettle => ?_, fun hrow hcol => ?_, hmem, hages, commandEdge_host _ _ s, hmark⟩
    · rw [advanceSeq_rspValid, if_neg hrel]
    · rw [advanceSeq_rdata, if_neg hsample]
    · rw [advanceSeq_cnt, if_neg hcas, if_neg hsettle]
    · rw [advanceSeq_addrOut, if_neg (hne rfl), if_neg (not_or.mpr ⟨hne rfl, hrow⟩),
        if_neg (not_or.mpr ⟨hne rfl, hcol⟩)]

/-- In `W_CAS` the latches of this very step address the cell of `ROW` and `COL` (R78, R79). -/
theorem openCell_wCas {e : Env} {s : State} (hv : e.cfg.Valid) (hs : Inv e s) (hp : s.seq.phase = .wCas) (i : Instr) :
    openCell (latchCol e s.edge s.seq (commandEdge e i s).seq
      (latchRow e s.edge s.seq (commandEdge e i s).seq s.dev)) = some (cellKey s.seq.row s.seq.col) := by
  obtain ⟨hpins, henables⟩ := levels_of_inRun (.inr hs) hp nofun
  simp only [enablesOf, phaseEnables, Prod.mk.injEq] at henables
  obtain ⟨hras, hcas, -⟩ := Pins.mk.inj hpins
  rw [(commandEdge_wCas_of_inv hv hs hp i).1]
  simp [openCell, latchCol, latchRow, hras, hcas, henables, hs.dev.rowOpen hras, hs.seq.colShown (.inl hp),
    colOfLines_addrToLines e.cfg _ hv hs.seq.index.2]

/-- The edge of `W_CAS` on the cells: `WDATA` with age 0 in the cell of `ROW` and `COL`, every other one older (R37, R79). -/
theorem commandEdge_cells_wCas {e : Env} {s : State} (hv : e.cfg.Valid) (hs : Inv e s) (hp : s.seq.phase = .wCas)
    (i : Instr) :
    Memory.stored (commandEdge e i s).dev.mem (cellKey s.seq.row s.seq.col) = some s.seq.wdata ∧
      Table.find (commandEdge e i s).dev.ages (cellKey s.seq.row s.seq.col) = some 0 ∧
      ∀ other, other ≠ cellKey s.seq.row s.seq.col →
        Memory.stored (commandEdge e i s).dev.mem other = Memory.stored s.dev.mem other ∧
        Table.find (commandEdge e i s).dev.ages other = (Table.find s.dev.ages other).map (· + 1) := by
  rw [(commandEdge_wCas_of_inv hv hs hp i).2]
  refine ⟨stored_storeAt_same _ _ _, find_ages_storeAt_same _ _ _, fun other hother => ⟨?_, ?_⟩⟩
  · rw [stored_storeAt_other _ _ _ _ hother, ageDevice_mem]
  · rw [find_ages_storeAt_other _ _ _ _ hother, ageDevice_ages, find_ageAll]

/-- Settles O26: the levels of `W_CAS` and the open row make the edge the one store; WE is low, so the device does not drive. -/
theorem writeStoresItsCell : Obligations.WriteStoresItsCell := by
  unfold Obligations.WriteStoresItsCell
  intro s r k v hrun hp
  have hs := inv_of_inRun hrun
  obtain ⟨hras, -, hwe, -⟩ := Pins.mk.inj (levels_of_inRun hrun hp nofun).1
  obtain ⟨hseq, hdev⟩ := commandEdge_wCas_of_inv config_valid hs hp (.write r k v)
  obtain ⟨hstored, hage, hother⟩ := commandEdge_cells_wCas config_valid hs hp (.write r k v)
  refine ⟨_, exec_eq _ s, hseq, ?_, ?_, hstored, hage, hother, ?_⟩
  · rw [hdev, storeAt_rowL, ageDevice_rowL]
    exact hs.dev.rowOpen hras
  · rw [hdev, storeAt_colL, ageDevice_colL]
  · rw [hseq]
    simp [drivenCell, hwe]

/-- Settles O29: as the frame of INIT; the one store is that of `W_CAS`, to the cell its latches address. -/
theorem writeFrame : Obligations.WriteFrame := by
  unfold Obligations.WriteFrame
  intro s t r k v hrun hp hst
  rw [exec_eq] at hst
  cases hst
  have hs := inv_of_inRun hrun
  have hcells (cell : Nat) (hcell : s.seq.phase = .wCas →
      openCell (latchCol Config.env s.edge s.seq (commandEdge Config.env (.write r k v) s).seq
        (latchRow Config.env s.edge s.seq (commandEdge Config.env (.write r k v) s).seq s.dev)) ≠ some cell) :
      Memory.stored (commandEdge Config.env (.write r k v) s).dev.mem cell = Memory.stored s.dev.mem cell ∧
      Table.find (commandEdge Config.env (.write r k v) s).dev.ages cell =
        (Table.find s.dev.ages cell).map (· + 1) := by
    by_cases hcas : s.seq.phase = .wCas
    · have hother := hcell hcas
      rw [openCell_wCas config_valid hs hcas, Ne, Option.some.injEq, eq_comm] at hother
      exact (commandEdge_cells_wCas config_valid hs hcas _).2.2 cell hother
    · obtain ⟨hmem, hages⟩ := commandEdge_cells_kept hs (.write r k v) hcas
      exact ⟨hmem cell, hages cell⟩
  rcases hp with hr | hwrite
  · have hout := commandEdge_outcome Config.env (.write r k v) s hr
    obtain ⟨hpins, henables, haddr, hdq, hrdata, hcnt, -, hcode⟩ := hout.frame
    obtain ⟨hctrl, haddrOe, hinited⟩ := (enablesOf_eq_iff _ _).mp henables
    exact ⟨hrdata, hcnt, hinited, hctrl, haddrOe, hcode, fun _ => ⟨hpins, haddr, hdq⟩, by simp [hr],
      fun _ _ => haddr, fun _ => hdq, hcells, commandEdge_host _ _ s⟩
  · have hb := not_phaseReady_of_phaseOfWrite hwrite
    have hne {q : Phase} (hq : (phaseReady q || phaseOfWrite q) = false) : s.seq.phase ≠ q :=
      ne_of_ready_or (.inr hwrite) hq
    refine ⟨?_, ?_, ?_, ?_, ?_, ?_, by simp [hb], fun _ => ⟨?_, ?_, ?_, ?_⟩, fun hrow hcol => ?_, fun hdata => ?_, hcells,
      commandEdge_host _ _ s⟩
    all_goals rw [commandEdge_seq_busy _ _ s hb]
    · rw [advanceSeq_rdata, if_neg (hne rfl)]
    · rw [advanceSeq_cnt, if_neg (hne rfl), if_neg (hne rfl)]
    · rw [advanceSeq_inited, if_neg (hne rfl)]
    · rw [advanceSeq_ctrlOe, if_neg (hne rfl)]
    · rw [advanceSeq_addrOe, if_neg (hne rfl)]
    · rw [advanceSeq_faultCode]
      exact fun _ => rfl
    · rw [advanceSeq_row]
    · rw [advanceSeq_col]
    · rw [advanceSeq_wdata]
    · rw [advanceSeq_rspValid, if_neg (hne rfl)]
    · rw [advanceSeq_addrOut, if_neg (hne rfl), if_neg (not_or.mpr ⟨hrow, hne rfl⟩),
        if_neg (not_or.mpr ⟨hcol, hne rfl⟩)]
    · rw [advanceSeq_dqOut, if_neg hdata]

end Sys2Proof.Machine
end

section
namespace Sys2Proof.Machine

/-! Steps of the machine inside a command: ages, contention, the sample. -/

/-- Settles O46: the step of `W_CAS` writes age 0 for its cell; every other step only ages. -/
theorem cellsAge : Obligations.CellsAge := by
  unfold Obligations.CellsAge
  intro s t hrun hst h key
  rw [step_eq] at hst
  cases hst
  have hs := inv_of_inRun hrun
  by_cases hp : s.seq.phase = .wCas
  · obtain ⟨-, hages⟩ := stepIn_cells_wCas config_valid hs h hp
    rw [hages]
    refine ⟨fun ⟨_, hkey⟩ => ?_, fun hother => ?_⟩
    · rw [hkey, Table.find_put_same]
    · rw [Table.find_put_other _ _ _ _ (fun hkey => hother ⟨hp, hkey⟩), find_ageAll]
  · obtain ⟨-, hages⟩ := stepIn_cells_kept hs h hp
    exact ⟨fun hstore => absurd hstore.1 hp, fun _ => by rw [hages, find_ageAll]⟩

theorem releaseOrder_of_orderEZS {c : Cfg} (h : OrderEZS c) : releaseOrder c = (.we, .data, .strobes) := by
  simp [releaseOrder, h.1, h.2]

theorem head_ne_reset_of_noReset {n : Nat} {s : State} (h : NoResetDuring (n + 1) s) : s.host.head? ≠ some .reset := by
  intro hhead
  obtain ⟨rest, hs⟩ := List.head?_eq_some_iff.mp hhead
  simp [NoResetDuring, hs] at h

/-- Under EZS the step of `W_X1` raises WE with the strobes still low and the data lines still driven: the device drives too. -/
theorem stepIn_contention_wX1 {e : Env} {s : State} (hv : e.cfg.Valid) (hs : Inv e s) (horder : OrderEZS e.cfg)
    (hp : s.seq.phase = .wX1) (h : s.host.head? ≠ some .reset) : (stepIn e s).contention = true := by
  obtain ⟨hpins, henables⟩ := levels_of_inRun (.inr hs) hp nofun
  obtain ⟨hras, hcas, -, hdq⟩ := Pins.mk.inj hpins
  have hctrl : s.seq.ctrlOe = true := congrArg Prod.fst henables
  have hseq : (stepIn e s).seq = { s.seq with weN := true, phase := .wX2 } := by
    rw [stepIn_seq_phaseOfWrite e s (by rw [hp]; rfl) h, writeAction_wX1 _ hp, releaseOrder_of_orderEZS horder]
    rfl
  have hrow := stepIn_rowOpen hs h hv (by rw [hseq]; exact hras)
  have hcol := stepIn_colOpen hs h hv (by rw [hseq]; exact hcas)
  have hdriven := (drivenCell_eq_some_iff (stepIn e s).seq (stepIn e s).dev _).mpr ⟨by rw [hseq]; exact hctrl,
    by rw [hseq]; exact hras, by rw [hseq]; exact hcas, by rw [hseq], _, _, hrow, hcol, rfl⟩
  exact (stepIn_contention_iff e s h).mpr (.inr ⟨⟨_, hdriven⟩, by rw [hseq]; exact hdq⟩)

/-- Settles O28: contention needs levels that only the step of `W_X1` under EZS gives, and there it is recorded. -/
theorem contentionOnlyUnderEZS : Obligations.ContentionOnlyUnderEZS := by
  unfold Obligations.ContentionOnlyUnderEZS
  intro e s hv hrun
  have hs := inv_of_inRun hrun
  exact ⟨fun horder => stepIn_contention_eq hv hs fun h => horder h.2,
    fun horder hp hno => stepIn_contention_wX1 hv hs horder hp (head_ne_reset_of_noReset hno)⟩

/-- An entry that a lookup finds is in the list. -/
theorem Table.mem_of_find {α : Type} (t : List (Nat × α)) (key : Nat) (x : α) (h : Table.find t key = some x) :
    (key, x) ∈ t := by
  induction t with
  | nil => simp [Table.find] at h
  | cons a t ih =>
    obtain ⟨k, v⟩ := a
    simp only [Table.find] at h
    split at h
    · simp_all
    · exact List.mem_cons_of_mem _ (ih h)

/-- With the strobes low, WE high and the data lines released, `dq_in` is the content of the open cell (R80, R81). -/
theorem dqIn_open {e : Env} {q : Seq} {d : Device} {r k : Byte} (n : Nat) (hc : q.ctrlOe = true)
    (hpins : pinsOf q = { ras := false, cas := false, we := true, dq := false }) (hrow : d.rowL = some r)
    (hcol : d.colL = some k) (hset : SettleOK e) : dqIn e n q d = cellValue e n d (cellKey r k) := by
  obtain ⟨hr, hk, hw, hq⟩ := Pins.mk.inj hpins
  exact dqIn_driven e n q d _ ((drivenCell_eq_some_iff _ _ _).mpr ⟨hc, hr, hk, hw, r, k, hrow, hcol, rfl⟩) hq hset

/-- What is sampled of a fresh cell that is not stuck is the value stored in it, which fits (R81, R82, R167). -/
theorem sample_fresh {e : Env} {q : Seq} {d : Device} {r k v : Byte} {age : Nat} (n : Nat) (hc : q.ctrlOe = true)
    (hpins : pinsOf q = { ras := false, cas := false, we := true, dq := false }) (hrow : d.rowL = some r)
    (hcol : d.colL = some k) (hset : SettleOK e) (hstuck : NotStuck e (cellKey r k))
    (hstored : Memory.stored d.mem (cellKey r k) = some v) (hage : Table.find d.ages (cellKey r k) = some age)
    (hfresh : age < e.retention) (hfits : v.toNat < 2 ^ e.cfg.width.bits) : maskW e.cfg (dqIn e n q d) = v := by
  rw [dqIn_open n hc hpins hrow hcol hset, cellValue_notStuck e n d _ hstuck,
    memValue_fresh e n d _ v age hstored hage hfresh, maskW, maskBits_of_lt _ _ hfits]

/-- Settles O34: in `R_SAMPLE` the strobes are low, so the latches address the cell of `ROW` and `COL`. -/
theorem sampleReturnsFreshStore : Obligations.SampleReturnsFreshStore := by
  unfold Obligations.SampleReturnsFreshStore
  intro e s v hrun hp hno hset hstuck hfresh hstored
  have hs := inv_of_inRun hrun
  obtain ⟨hpins, henables⟩ := levels_of_inRun hrun hp nofun
  obtain ⟨hras, hcas, -, -⟩ := Pins.mk.inj hpins
  obtain ⟨age, hage, hyoung⟩ := hfresh
  have hfits := (hs.dev.cells _ (Table.mem_of_find _ _ _ hstored)).2
  rw [stepIn_seq_phaseOfRead e s (by rw [hp]; rfl) (head_ne_reset_of_noReset hno), readAction_rSample _ _ hp]
  exact sample_fresh s.edge (congrArg Prod.fst henables) hpins (hs.dev.rowOpen hras) (hs.dev.colOpen hcas) hset hstuck
    hstored hage hyoung hfits

end Sys2Proof.Machine
end

section
namespace Sys2Proof.Machine

/-! Runs of several steps under any moves of the host but a reset. -/

theorem noReset_stepIn {e : Env} {n : Nat} {s : State} (h : NoResetDuring (n + 1) s) : NoResetDuring n (stepIn e s) := by
  rw [NoResetDuring, stepIn_host]
  cases hs : s.host with
  | nil => simp
  | cons move rest =>
    rw [NoResetDuring, hs, List.take_succ_cons, List.mem_cons, not_or] at h
    exact h.2

theorem NoResetDuring.mono {n m : Nat} {s : State} (h : NoResetDuring n s) (hm : m ≤ n) : NoResetDuring m s :=
  fun hmem => h (List.take_subset_take_left s.host hm hmem)

theorem runIn_add (e : Env) (m n : Nat) (s : State) : runIn e (m + n) s = runIn e n (runIn e m s) := by
  induction m generalizing s with
  | zero => rw [Nat.zero_add, runIn]
  | succ m ih => rw [Nat.succ_add, runIn, ih, runIn]

theorem runIn_one (e : Env) (s : State) : runIn e 1 s = stepIn e s := rfl

/-- The move at the end of a run of `n` steps is no reset if none comes in `n + 1` steps. -/
theorem head_runIn_ne_reset {e : Env} {n : Nat} {s : State} (h : NoResetDuring (n + 1) s) :
    (runIn e n s).host.head? ≠ some .reset := by
  induction n generalizing s with
  | zero => exact head_ne_reset_of_noReset h
  | succ n ih => exact ih (noReset_stepIn h)

/-- "WE asserted implies data driven" is a statement about the four levels. -/
theorem weImpliesDriven_iff {q : Seq} {p : Pins} (h : pinsOf q = p) :
    WeImpliesDriven q ↔ (p.we = false → p.dq = true) := by
  subst h
  rfl

/-- The phases of the release follow each other (R148). -/
theorem runIn_release_phases {e : Env} {s : State} (hp : s.seq.phase = .wX1) (hno : NoResetDuring 3 s) :
    (runIn e 1 s).seq.phase = .wX2 ∧ (runIn e 2 s).seq.phase = .wX3 ∧ (runIn e 3 s).seq.phase = .idle := by
  have hp₁ : (runIn e 1 s).seq.phase = .wX2 := by
    rw [runIn_one, stepIn_seq_phaseOfWrite e s (by rw [hp]; rfl) (head_ne_reset_of_noReset hno), writeAction_wX1 _ hp]
  have hp₂ : (runIn e 2 s).seq.phase = .wX3 := by
    rw [runIn_add e 1 1, runIn_one, stepIn_seq_phaseOfWrite e _ (by rw [hp₁]; rfl)
      (head_runIn_ne_reset (hno.mono (by decide))), writeAction_wX2 _ hp₁]
  have hp₃ : (runIn e 3 s).seq.phase = .idle := by
    rw [runIn_add e 2 1, runIn_one, stepIn_seq_phaseOfWrite e _ (by rw [hp₂]; rfl) (head_runIn_ne_reset hno),
      writeAction_wX3 _ hp₂]
  exact ⟨hp₁, hp₂, hp₃⟩

/-- Settles O25: after each release step the levels are those of the phase reached, and they decide which orders keep the data
lines driven while WE is low. -/
theorem releaseLevels : Obligations.ReleaseLevels := by
  unfold Obligations.ReleaseLevels
  intro e s hrun hp hno
  obtain ⟨hp₁, hp₂, hp₃⟩ := runIn_release_phases (e := e) hp hno
  have hfollow := pinsFollowPhase_of_inRun hrun
  have hpins {n : Nat} {p : Phase} (hn : (runIn e n s).seq.phase = p) (hf : p ≠ .fault) :
      pinsOf (runIn e n s).seq = phasePins e.cfg p :=
    hn ▸ (runIn_pinsFollowPhase e n s hfollow (hn ▸ hf)).1
  have h₀ : pinsOf (runIn e 0 s).seq = _ := hpins hp nofun
  have h₁ := hpins hp₁ nofun
  have h₂ := hpins hp₂ nofun
  have h₃ := hpins hp₃ nofun
  refine ⟨h₀, h₃, fun hw he => ?_, fun hw he => ?_, fun hw he => ?_, fun hw he => ?_, ?_⟩
  iterate 4
    · rw [h₁, h₂]
      simp [phasePins, hw, he]
  have hiff : (∀ n, n ≤ 3 → WeImpliesDriven (runIn e n s).seq) ↔
      WeImpliesDriven (runIn e 0 s).seq ∧ WeImpliesDriven (runIn e 1 s).seq ∧ WeImpliesDriven (runIn e 2 s).seq ∧
        WeImpliesDriven (runIn e 3 s).seq := by
    refine ⟨fun h => ⟨h 0 (by decide), h 1 (by decide), h 2 (by decide), h 3 (by decide)⟩, ?_⟩
    rintro ⟨w₀, w₁, w₂, w₃⟩ n hn
    interval_cases n <;> assumption
  rw [hiff, weImpliesDriven_iff h₀, weImpliesDriven_iff h₁, weImpliesDriven_iff h₂, weImpliesDriven_iff h₃]
  cases hw : e.cfg.writeRelease <;> cases he : e.cfg.weRelease <;> simp [phasePins, idlePins, hw, he]

/-- `m` steps into the settle loop, in `R_SETTLE` or, at its end, in `R_SAMPLE` (R165, R166). -/
theorem runIn_settle {e : Env} (hv : e.cfg.Valid) {s : State} (hp : s.seq.phase = .rCas)
    (hno : NoResetDuring (1 + e.cfg.settleCycles) s) (m : Nat) (hm : m ≤ e.cfg.settleCycles) :
    (runIn e (1 + m) s).seq.phase = (if m = e.cfg.settleCycles then .rSample else .rSettle) ∧
      (runIn e (1 + m) s).seq.cnt.toNat = e.cfg.settleCycles - m := by
  obtain ⟨-, -, -, -, hmax⟩ := hv
  induction m with
  | zero =>
    rw [Nat.add_zero, runIn_one, stepIn_seq_phaseOfRead e s (by rw [hp]; rfl)
      (head_ne_reset_of_noReset (hno.mono (Nat.le_add_right 1 _))), readAction_rCas _ _ hp]
    refine ⟨by simp only [eq_comm], ?_⟩
    simp only [BitVec.toNat_ofNat]
    omega
  | succ m ih =>
    obtain ⟨hphase, hcnt⟩ := ih (Nat.le_of_succ_le hm)
    rw [if_neg (by omega)] at hphase
    rw [← Nat.add_assoc, runIn_add, runIn_one, stepIn_seq_phaseOfRead e _ (by rw [hphase]; rfl)
      (head_runIn_ne_reset (hno.mono (by omega))), readAction_rSettle _ _ hphase]
    generalize (runIn e (1 + m) s).seq = q at hcnt ⊢
    have hlast : q.cnt = 1#8 ↔ m + 1 = e.cfg.settleCycles := by bv_omega
    simp only [hlast]
    exact ⟨trivial, by bv_omega⟩

/-- Settles O33: the counter of the settle loop tells how many of its steps are taken. -/
theorem settleLoopIsCounted : Obligations.SettleLoopIsCounted := by
  unfold Obligations.SettleLoopIsCounted
  intro e s hv hp hno
  refine ⟨fun n hn => ?_, ?_⟩
  · obtain ⟨hphase, hcnt⟩ := runIn_settle hv hp hno n hn.le
    exact ⟨by rw [hphase, if_neg hn.ne], hcnt⟩
  · obtain ⟨hphase, hcnt⟩ := runIn_settle hv hp hno _ le_rfl
    exact ⟨by rw [hphase, if_pos rfl], BitVec.eq_of_toNat_eq (by rw [hcnt, Nat.sub_self]; rfl)⟩

end Sys2Proof.Machine
end

section
namespace Sys2Proof.Machine

/-! How many edges a command in progress still takes (R248). -/

/-- Edges from a phase of a command to `IDLE`; 0 where no command is in progress. -/
def edgesLeft (c : Cfg) (q : Seq) : Nat :=
  match q.phase with
  | .iCtrl => 3
  | .iAddr => 2
  | .iData => 1
  | .wRow => 10
  | .wRas => 9
  | .wData => 8
  | .wDrive => 7
  | .wWe => 6
  | .wCol => 5
  | .wCas => 4
  | .wX1 => 3
  | .wX2 => 2
  | .wX3 => 1
  | .rRow => 6 + c.settleCycles
  | .rRas => 5 + c.settleCycles
  | .rCol => 4 + c.settleCycles
  | .rCas => 3 + c.settleCycles
  | .rSettle => 2 + q.cnt.toNat
  | .rSample => 2
  | .rRel => 1
  | _ => 0

/-- A command is in progress or has come back to `IDLE`, and in the settle loop the counter is not at 0. -/
structure Serving (q : Seq) : Prop where
  notUninit : q.phase ≠ .uninit
  notFault : q.phase ≠ .fault
  counted : q.phase = .rSettle → 1 ≤ q.cnt.toNat

theorem phaseBusy_iff (p : Phase) : phaseBusy p = true ↔ phaseReady p = false ∧ p ≠ .fault := by
  cases p <;> simp [phaseBusy, phaseReady]

theorem edgesLeft_pos_iff (c : Cfg) (q : Seq) : 0 < edgesLeft c q ↔ phaseBusy q.phase = true := by
  cases hp : q.phase <;> simp [edgesLeft, phaseBusy, hp]

theorem Serving.phase_of_edgesLeft_zero {c : Cfg} {q : Seq} (hq : Serving q) (h : edgesLeft c q = 0) :
    q.phase = .idle := by
  have hnot : ¬ phaseBusy q.phase = true := by rw [← edgesLeft_pos_iff c, h]; exact lt_irrefl 0
  rw [phaseBusy_iff, not_and_or, Bool.not_eq_false] at hnot
  have hr := hnot.resolve_right (not_not.mpr hq.notFault)
  exact ((phaseReady_iff _).mp hr).resolve_left hq.notUninit

/-- Each edge of a command brings it one edge nearer to its end; the settle loop by its counter. -/
theorem edgesLeft_advanceSeq {c : Cfg} (hv : c.Valid) (dq : Byte) {q : Seq} (hb : phaseBusy q.phase = true)
    (hq : Serving q) : edgesLeft c (advanceSeq c dq q) + 1 = edgesLeft c q := by
  obtain ⟨-, -, -, -, hmax⟩ := hv
  cases hp : q.phase
  case uninit | idle | fault => simp [hp, phaseBusy] at hb
  case rCas =>
    rw [advanceSeq_of_phaseOfRead c dq (by rw [hp]; rfl), readAction_rCas c dq hp]
    by_cases hzero : c.settleCycles = 0
    · simp [edgesLeft, hp, hzero]
    · simp only [edgesLeft, hp, hzero, if_false, BitVec.toNat_ofNat]
      omega
  case rSettle =>
    have hcnt := hq.counted hp
    rw [advanceSeq_of_phaseOfRead c dq (by rw [hp]; rfl), readAction_rSettle c dq hp]
    by_cases hlast : q.cnt = 1#8
    · simp [edgesLeft, hp, hlast]
    · simp only [edgesLeft, hp, hlast, if_false]
      bv_omega
  all_goals simp [edgesLeft, advanceSeq, initAction, writeAction, readAction, hp] <;> omega

theorem serving_advanceSeq {c : Cfg} (hv : c.Valid) (dq : Byte) {q : Seq} (hq : Serving q) :
    Serving (advanceSeq c dq q) := by
  obtain ⟨hnotUninit, hnotFault, hcounted⟩ := hq
  obtain ⟨-, -, -, -, hmax⟩ := hv
  refine ⟨advanceSeq_phase_ne_uninit c dq hnotUninit, fun hp => ?_, fun hp => ?_⟩
  · rcases advanceSeq_cases c dq q with ha | ha | ha | ha <;> rw [ha] at hp
    · exact hnotFault hp
    · exact (initAction_recordsNoFault q).phase_ne_fault hnotFault hp
    · exact (writeAction_recordsNoFault c q).phase_ne_fault hnotFault hp
    · exact (readAction_recordsNoFault c dq q).phase_ne_fault hnotFault hp
  · rw [advanceSeq_cnt]
    rcases advanceSeq_phase_rSettle c dq q hp with ⟨hcas, hcycles⟩ | ⟨hsettle, hlast⟩
    · rw [if_pos hcas, BitVec.toNat_ofNat]
      omega
    · have hlow := hcounted hsettle
      rw [if_neg (by simp [hsettle]), if_pos hsettle]
      bv_omega

/-- `n` edges of a command in progress, not past its end. -/
theorem iterate_edgesLeft {e : Env} (hv : e.cfg.Valid) (i : Instr) (n : Nat) {s : State} (hq : Serving s.seq)
    (hn : n ≤ edgesLeft e.cfg s.seq) :
    Serving ((commandEdge e i)^[n] s).seq ∧
      edgesLeft e.cfg ((commandEdge e i)^[n] s).seq + n = edgesLeft e.cfg s.seq := by
  induction n with
  | zero => exact ⟨hq, rfl⟩
  | succ n ih =>
    obtain ⟨hserving, hleft⟩ := ih (Nat.le_of_succ_le hn)
    have hb : phaseBusy ((commandEdge e i)^[n] s).seq.phase = true := (edgesLeft_pos_iff e.cfg _).mp (by omega)
    rw [Function.iterate_succ_apply', commandEdge_seq_busy _ _ _ (not_phaseReady_of_phaseBusy hb)]
    refine ⟨serving_advanceSeq hv _ hserving, ?_⟩
    have hedge := edgesLeft_advanceSeq hv (dqIn e ((commandEdge e i)^[n] s).edge ((commandEdge e i)^[n] s).seq
      ((commandEdge e i)^[n] s).dev) hb hserving
    omega

/-! A run inside a command is the edge of any command again and again, with the host's moves used up (R104). -/

theorem iterate_withHost (e : Env) (i : Instr) (n : Nat) (s : State) (moves : List HostMove) :
    (commandEdge e i)^[n] { s with host := moves } = { (commandEdge e i)^[n] s with host := moves } := by
  induction n with
  | zero => rfl
  | succ n ih => rw [Function.iterate_succ_apply', Function.iterate_succ_apply', ih, commandEdge_withHost]

@[simp] theorem iterate_edge (e : Env) (i : Instr) (n : Nat) (s : State) :
    ((commandEdge e i)^[n] s).edge = s.edge + n := by
  induction n with
  | zero => rfl
  | succ n ih => rw [Function.iterate_succ_apply', commandEdge_edge, ih, Nat.add_assoc]

theorem runIn_serving {e : Env} (hv : e.cfg.Valid) (i : Instr) (n : Nat) {s : State} (hq : Serving s.seq)
    (hn : n ≤ edgesLeft e.cfg s.seq) (hno : NoResetDuring n s) :
    runIn e n s = { (commandEdge e i)^[n] s with host := s.host.drop n } := by
  induction n with
  | zero => rfl
  | succ n ih =>
    obtain ⟨-, hleft⟩ := iterate_edgesLeft hv i n hq (Nat.le_of_succ_le hn)
    have hb : phaseBusy ((commandEdge e i)^[n] s).seq.phase = true := (edgesLeft_pos_iff e.cfg _).mp (by omega)
    have hhead := head_runIn_ne_reset (e := e) hno
    have hsofar := ih (Nat.le_of_succ_le hn) (hno.mono (Nat.le_succ n))
    rw [hsofar] at hhead
    rw [runIn_add, runIn_one, hsofar, stepIn_eq_commandEdge e i { (commandEdge e i)^[n] s with host := s.host.drop n }
      (not_phaseReady_of_phaseBusy hb) hhead, commandEdge_withHost, Function.iterate_succ_apply', List.tail_drop]

/-- An accepted command that passes the checks has all but the first of its edges left. -/
theorem commandEdge_serving {e : Env} {i : Instr} {s : State} (h : PassesChecks e.cfg i s.seq.phase) :
    Serving (commandEdge e i s).seq ∧ edgesLeft e.cfg (commandEdge e i s).seq + 1 = commandSteps e.cfg i := by
  rcases h with ⟨hp, rfl⟩ | ⟨hp, hi, hfit⟩
  · rw [commandEdge_init_uninit e s hp, edgeTo_seq]
    exact ⟨⟨nofun, nofun, nofun⟩, rfl⟩
  · rw [commandEdge_ready e i s ((phaseReady_iff _).mpr (.inr hp)), edgeTo_seq]
    cases i with
    | init => exact absurd rfl hi
    | read r k =>
      dsimp only
      rw [(acceptRead_idle e.cfg r k hp).trans (if_pos hfit)]
      exact ⟨⟨nofun, nofun, nofun⟩, by simp only [edgesLeft, commandSteps]; omega⟩
    | write r k v =>
      dsimp only
      rw [(acceptWrite_idle e.cfg r k v hp).trans (if_pos hfit)]
      exact ⟨⟨nofun, nofun, nofun⟩, rfl⟩

/-- A command presented once is run to any of its edges, whatever the host does in between but a reset. -/
theorem runIn_present {e : Env} (hv : e.cfg.Valid) {i : Instr} {s : State} (h : PassesChecks e.cfg i s.seq.phase)
    (n : Nat) (hn : n < commandSteps e.cfg i) (moves : List HostMove) (hno : HostMove.reset ∉ moves.take n) :
    runIn e (n + 1) { s with host := .present (encode i) :: moves } =
      { (commandEdge e i)^[n + 1] s with host := moves.drop n } := by
  obtain ⟨hserving, hleft⟩ := commandEdge_serving h
  rw [runIn, stepIn_present, runIn_serving hv i n (s := { commandEdge e i s with host := moves }) hserving
    (by dsimp only; omega) hno, iterate_withHost, Function.iterate_succ_apply]

theorem commandSteps_pos (c : Cfg) (i : Instr) : 0 < commandSteps c i := by
  cases i <;> simp only [commandSteps] <;> omega

/-- A whole command issued by the host (R180, R248). -/
theorem issue_eq {e : Env} (hv : e.cfg.Valid) {i : Instr} {s : State} (h : PassesChecks e.cfg i s.seq.phase) :
    issue e i s = { (commandEdge e i)^[commandSteps e.cfg i] s with host := [] } := by
  have hpos := commandSteps_pos e.cfg i
  have hrun := runIn_present hv h (commandSteps e.cfg i - 1) (by omega) [] (by simp)
  rwa [Nat.sub_add_cancel hpos, List.drop_nil] at hrun

theorem issue_phase {e : Env} (hv : e.cfg.Valid) {i : Instr} {s : State} (h : PassesChecks e.cfg i s.seq.phase) :
    (issue e i s).seq.phase = .idle := by
  obtain ⟨hserving, hleft⟩ := commandEdge_serving h
  obtain ⟨hserving', hleft'⟩ := iterate_edgesLeft hv i (commandSteps e.cfg i - 1) hserving (by omega)
  rw [← Function.iterate_succ_apply, Nat.succ_eq_add_one, Nat.sub_add_cancel (commandSteps_pos e.cfg i)]
    at hserving' hleft'
  rw [issue_eq hv h]
  exact hserving'.phase_of_edgesLeft_zero (c := e.cfg) (by omega)

/-- Before its last edge a command is in progress. -/
theorem runIn_present_busy {e : Env} (hv : e.cfg.Valid) {i : Instr} {s : State} (h : PassesChecks e.cfg i s.seq.phase)
    {n : Nat} (hpos : 0 < n) (hn : n < commandSteps e.cfg i) :
    phaseBusy (runIn e n { s with host := [.present (encode i)] }).seq.phase = true := by
  obtain ⟨m, rfl⟩ : ∃ m, n = m + 1 := ⟨n - 1, by omega⟩
  obtain ⟨hserving, hleft⟩ := commandEdge_serving h
  obtain ⟨-, hleft'⟩ := iterate_edgesLeft hv i m hserving (by omega)
  rw [← Function.iterate_succ_apply, Nat.succ_eq_add_one] at hleft'
  rw [runIn_present hv h m (by omega) [] (by simp)]
  exact (edgesLeft_pos_iff e.cfg _).mp (by dsimp only; omega)

/-- Settles O38: a legal command by its count of edges left, a faulting acceptance by the fault it raises. -/
theorem commandLengths : Obligations.CommandLengths := by
  unfold Obligations.CommandLengths
  intro e s hv
  refine ⟨fun hp => issue_phase hv (.inl ⟨hp, rfl⟩), fun r k v hp hfit => issue_phase hv (.inr ⟨hp, nofun, hfit⟩),
    fun r k hp hfit => issue_phase hv (.inr ⟨hp, nofun, hfit⟩), rfl, fun _ _ _ => rfl, fun _ _ => rfl,
    fun i n hfit hpass hpos hn => runIn_present_busy hv (hpass.imp_right fun ⟨hp, hi⟩ => ⟨hp, hi, hfit⟩) hpos hn,
    fun word why hd hr => ?_, fun i hfault => ?_⟩
  · rw [runIn_one, stepIn_seq_reserved e { s with host := [.present word] } word [] why rfl hd hr]
    rfl
  · rw [runIn_one, stepIn_present]
    rcases hfault with ⟨hp, hi⟩ | ⟨hp, rfl⟩ | ⟨hp, hfit⟩
    · exact congrArg Seq.phase (commandEdge_seq_notInit e hp hi)
    · exact congrArg Seq.phase (commandEdge_seq_reInit e hp)
    · exact congrArg Seq.phase (commandEdge_seq_operand e hp hfit)

/-! A word on the port waits for the command in progress to end (R245). -/

theorem edgesLeft_le {c : Cfg} {q : Seq} (hq : SeqInv c q) : edgesLeft c q ≤ max 10 (6 + c.settleCycles) := by
  have hsettle := hq.settle
  cases hp : q.phase
  case rSettle =>
    obtain ⟨-, hcnt⟩ := hsettle hp
    simp only [edgesLeft, hp]
    omega
  all_goals simp only [edgesLeft, hp]; omega

/-- A command in progress, step by step to its end: busy before it, in `IDLE` at it. -/
theorem runIn_phase_serving {e : Env} (hv : e.cfg.Valid) {s : State} (hq : Serving s.seq) {n : Nat}
    (hn : n ≤ edgesLeft e.cfg s.seq) (hno : NoResetDuring n s) :
    (n < edgesLeft e.cfg s.seq → phaseBusy (runIn e n s).seq.phase = true) ∧
      (n = edgesLeft e.cfg s.seq → (runIn e n s).seq.phase = .idle) := by
  obtain ⟨hserving, hleft⟩ := iterate_edgesLeft hv .init n hq hn
  rw [runIn_serving hv .init n hq hn hno]
  exact ⟨fun hlt => (edgesLeft_pos_iff e.cfg _).mp (by dsimp only; omega),
    fun heq => hserving.phase_of_edgesLeft_zero (c := e.cfg) (by omega)⟩

/-- A word that is held while a command is in progress is on the port at the next step (R245). -/
theorem head_tail_of_wordHeld {s : State} {word : CmdWord} (hw : s.host.head? = some (.present word))
    (hheld : wordHeld s = true) (hb : phaseBusy s.seq.phase = true) (hno : s.host.tail.head? ≠ some .reset) :
    s.host.tail.head? = some (.present word) := by
  obtain ⟨rest, hs⟩ := List.head?_eq_some_iff.mp hw
  simp_all [wordHeld]

/-- Settles O39: a busy phase has a known number of edges left, at each of which the host's duty keeps the word on the port. -/
theorem waitingWordIsAccepted : Obligations.WaitingWordIsAccepted := by
  unfold Obligations.WaitingWordIsAccepted
  intro e s word rest hv hrun hhost hno hduties hnofault
  have hs := inv_of_inRun hrun
  have hfault : s.seq.phase ≠ .fault := fun hp => hs.seq.faultCode.1.mpr hp (hnofault 0 le_rfl)
  cases hr : phaseReady s.seq.phase with
  | true => exact ⟨0, Nat.zero_le _, hr, by rw [runIn, hhost]; rfl, nofun⟩
  | false =>
    have hserving : Serving s.seq :=
      ⟨fun hp => by simp [hp, phaseReady] at hr, hfault, fun hp => (hs.seq.settle hp).1⟩
    have hbound := edgesLeft_le hs.seq
    have hphase {n : Nat} (hn : n ≤ edgesLeft e.cfg s.seq) :=
      runIn_phase_serving hv hserving hn (hno.mono (by omega))
    have hword (n : Nat) (hn : n ≤ edgesLeft e.cfg s.seq) :
        (runIn e n s).host.head? = some (.present word) := by
      induction n with
      | zero => rw [runIn, hhost]; rfl
      | succ n ih =>
        have hreset := head_runIn_ne_reset (e := e) (hno.mono (show n + 1 + 1 ≤ _ by omega))
        rw [runIn_add, runIn_one, stepIn_host] at hreset ⊢
        exact head_tail_of_wordHeld (ih (by omega)) (hduties n (by omega)) ((hphase (Nat.le_of_succ_le hn)).1 hn) hreset
    exact ⟨_, hbound, (phaseReady_iff _).mpr (.inr ((hphase le_rfl).2 rfl)), hword _ le_rfl,
      fun n hn => ⟨(hphase hn.le).1 hn, hword n hn.le⟩⟩

end Sys2Proof.Machine
end

section
namespace Sys2Proof.Machine

/-! Whole commands and waits from `IDLE` (R85, R154, R169, R170, R183). -/

/-- `IDLE` with its levels and its enables (R39 b). -/
structure IdleReady (s : State) : Prop where
  phase : s.seq.phase = .idle
  pins : pinsOf s.seq = idlePins
  enables : enablesOf s.seq = (true, true, true)

theorem idleReady_of_inRun {e : Env} {s : State} (hs : InRun e s) (hp : s.seq.phase = .idle) : IdleReady s := by
  obtain ⟨hpins, henables⟩ := levels_of_inRun hs hp nofun
  exact ⟨hp, hpins, henables⟩

theorem passesChecks_read {c : Cfg} {p : Phase} {r k : Byte} (hp : p = .idle) (hfit : (Instr.read r k).WellFormed c) :
    PassesChecks c (.read r k) p := .inr ⟨hp, nofun, hfit⟩

theorem passesChecks_write {c : Cfg} {p : Phase} {r k v : Byte} (hp : p = .idle)
    (hfit : (Instr.write r k v).WellFormed c) : PassesChecks c (.write r k v) p := .inr ⟨hp, nofun, hfit⟩

section Commands
variable {e : Env} {s : State} {r k : Byte} (hv : e.cfg.Valid) (hs : IdleReady s)
include hv hs

/-- A READ from `IDLE` (R170): `RDATA` is what the open cell gives at the step of `R_SAMPLE`, `5 + settleCycles` edges on. -/
theorem issue_read (hfit : (Instr.read r k).WellFormed e.cfg) : ∃ u : State,
    u.edge = s.edge + (5 + e.cfg.settleCycles) ∧ u.seq.ctrlOe = true ∧
    pinsOf u.seq = { ras := false, cas := false, we := true, dq := false } ∧
    u.dev = { ageDevice^[5 + e.cfg.settleCycles] s.dev with rowL := some r, colL := some k } ∧
    (issue e (.read r k) s).seq = { s.seq with
      row := r, col := k, rdata := maskW e.cfg (dqIn e u.edge u.seq u.dev)
      rspValid := true, cnt := 0#8, addrOut := addrToLines e.cfg k } ∧
    (issue e (.read r k) s).dev = { ageDevice^[7 + e.cfg.settleCycles] s.dev with rowL := none, colL := none } := by
  obtain ⟨hp, hpins, henables⟩ := hs
  obtain ⟨hsampling, hopen⟩ := read_edges_to_sample hv hp hfit hpins henables
  obtain ⟨hseq, hdev⟩ := read_all_edges hv hp hfit hpins henables _ rfl
  obtain ⟨-, -, hwe, hdq⟩ := Pins.mk.inj hpins
  rw [issue_eq hv (passesChecks_read hp hfit)]
  refine ⟨_, iterate_edge e _ _ s, by rw [hsampling]; exact congrArg Prod.fst henables, ?_, hopen, hseq, hdev⟩
  rw [hsampling]
  simp [pinsOf, hwe, hdq]

/-- A READ leaves the sequencer ready for the next command. -/
theorem issue_read_idleReady (hfit : (Instr.read r k).WellFormed e.cfg) : IdleReady (issue e (.read r k) s) := by
  obtain ⟨u, -, -, -, -, hseq, -⟩ := issue_read hv hs hfit
  exact ⟨by rw [hseq]; exact hs.phase, by rw [hseq]; exact hs.pins, by rw [hseq]; exact hs.enables⟩

/-- A READ of a fresh cell that is not stuck gives the value stored in it (R85). -/
theorem issue_read_fresh {v : Byte} {age : Nat} (hfit : (Instr.read r k).WellFormed e.cfg) (hset : SettleOK e)
    (hstuck : NotStuck e (cellKey r k)) (hstored : Memory.stored s.dev.mem (cellKey r k) = some v)
    (hage : Table.find s.dev.ages (cellKey r k) = some age) (hyoung : age + (5 + e.cfg.settleCycles) < e.retention)
    (hfits : v.toNat < 2 ^ e.cfg.width.bits) :
    (issue e (.read r k) s).seq.rdata = v ∧ (issue e (.read r k) s).seq.rspValid = true := by
  obtain ⟨u, -, hctrl, hpins, hdev, hseq, -⟩ := issue_read hv hs hfit
  have hmem : u.dev.mem = s.dev.mem := by rw [hdev]; exact ageDevice_iterate_mem _ _
  have hages : Table.find u.dev.ages (cellKey r k) = some (age + (5 + e.cfg.settleCycles)) := by
    rw [hdev]
    dsimp only
    rw [find_ageDevice_iterate, hage]
    rfl
  rw [hseq]
  exact ⟨sample_fresh u.edge hctrl hpins (by rw [hdev]) (by rw [hdev]) hset hstuck (hmem ▸ hstored) hages hyoung hfits,
    rfl⟩

/-- A WRITE leaves the sequencer ready, stores its value, age 3, and makes every other cell eleven edges older (R154). -/
theorem write_idleReady {v : Byte} (hfit : (Instr.write r k v).WellFormed e.cfg) :
    IdleReady ((commandEdge e (.write r k v))^[11] s) ∧
    Memory.stored ((commandEdge e (.write r k v))^[11] s).dev.mem (cellKey r k) = some v ∧
    Table.find ((commandEdge e (.write r k v))^[11] s).dev.ages (cellKey r k) = some 3 ∧
    ∀ other, other ≠ cellKey r k →
      Memory.stored ((commandEdge e (.write r k v))^[11] s).dev.mem other = Memory.stored s.dev.mem other ∧
      Table.find ((commandEdge e (.write r k v))^[11] s).dev.ages other = (Table.find s.dev.ages other).map (· + 11) := by
  obtain ⟨hp, hpins, henables⟩ := hs
  obtain ⟨hseq, hdev⟩ := write_eleven_edges e s r k v hv hp hfit hpins henables
  refine ⟨⟨by rw [hseq]; exact hp, by rw [hseq]; exact hpins, by rw [hseq]; exact henables⟩, ?_⟩
  rw [hdev, ageDevice_iterate_mem, stored_storeAt_same, find_ageDevice_iterate, find_ages_storeAt_same]
  refine ⟨rfl, rfl, fun other hother => ⟨?_, ?_⟩⟩
  · rw [stored_storeAt_other _ _ _ _ hother, ageDevice_iterate_mem]
  · rw [find_ageDevice_iterate, find_ages_storeAt_other _ _ _ _ hother, find_ageDevice_iterate, Option.map_map]
    rfl

end Commands

theorem maskW_maskW (c : Cfg) (v : Byte) : maskW c (maskW c v) = maskW c v := maskBits_of_lt _ _ (maskBits_lt _ v)

/-- Settles O35: the READ goes as always, but the sampling path delivers the draw of its step. -/
theorem shortSettleReadsDraw : Obligations.ShortSettleReadsDraw := by
  unfold Obligations.ShortSettleReadsDraw
  intro e s r k hv hshort hrun hp hfit
  have hidle := idleReady_of_inRun hrun hp
  obtain ⟨u, hedge, -, -, -, hseq, -⟩ := issue_read hv hidle hfit
  have hcode : s.seq.faultCode = 0#3 := by
    by_contra hcode
    simpa [hp] using (inv_of_inRun hrun).seq.faultCode.1.mp hcode
  refine ⟨(issue_read_idleReady hv hidle hfit).phase, ?_, ?_, ?_⟩
  · rw [hseq]
    exact hcode
  · rw [hseq]
  · rw [hseq]
    dsimp only
    rw [dqIn_draw _ _ _ _ (.inr (.inr (Nat.not_le.mpr hshort))), maskW_maskW, hedge, ← Nat.add_assoc]

/-- Settles O36: the WRITE uses up all but one of the READ's presentations, and the READ finds the cell fresh: 3 edges old, and
`5 + settleCycles` more at its sample. -/
theorem writeReadRoundTrip : Obligations.WriteReadRoundTrip := by
  unfold Obligations.WriteReadRoundTrip
  intro e s r k v hv hrun hp hfit hset hstuck hretention
  obtain ⟨hidle, hstored, hage, -⟩ := write_idleReady hv (idleReady_of_inRun hrun hp) hfit
  have hread : (Instr.read r k).WellFormed e.cfg := ⟨hfit.1, hfit.2.1⟩
  have hwritten := runIn_present hv (passesChecks_write hp hfit) 10 (show 10 < 11 by decide)
    (List.replicate 11 (.present (encode (.read r k)))) (by simp)
  refine ⟨_, rfl, ?_⟩
  rw [runIn_add, hwritten]
  generalize (commandEdge e (.write r k v))^[11] s = w at hidle hstored hage
  obtain ⟨hrdata, hrsp⟩ := issue_read_fresh hv hidle hread hset hstuck hstored hage (by omega) hfit.2.2
  exact ⟨hrdata, hrsp, (issue_read_idleReady hv hidle hread).phase, by simp [runIn_host]; omega⟩

/-- With no move of the host, `n` steps in `IDLE` only age the device (R183). -/
theorem runIn_silent_idle (e : Env) (n : Nat) {s : State} (hhost : s.host = []) (hp : s.seq.phase = .idle)
    (hc : s.seq.ctrlOe = true) : (runIn e n s).seq = s.seq ∧ (runIn e n s).dev = ageDevice^[n] s.dev ∧
      (runIn e n s).edge = s.edge + n := by
  induction n generalizing s with
  | zero => exact ⟨rfl, rfl, rfl⟩
  | succ n ih =>
    have hr : phaseReady s.seq.phase = true := (phaseReady_iff _).mpr (.inr hp)
    have hseq : (stepIn e s).seq = s.seq := stepIn_seq_quiet e s hr (.inl (by rw [hhost]; rfl))
    have hdev : (stepIn e s).dev = ageDevice s.dev := by
      rw [stepIn_dev e s (by simp [hhost]), hseq, react_still _ _ _ _ _ hc rfl rfl rfl]
    have hedge : (stepIn e s).edge = s.edge + 1 := by
      rw [stepIn_silent e s hhost]
      rfl
    obtain ⟨hseq', hdev', hedge'⟩ := ih (s := stepIn e s) (by rw [stepIn_host, hhost]; rfl) (hseq ▸ hp) (hseq ▸ hc)
    refine ⟨hseq'.trans hseq, ?_, ?_⟩
    · rw [runIn, hdev', hdev, Function.iterate_succ_apply]
    · rw [runIn, hedge', hedge, Nat.add_assoc, Nat.add_comm 1]

/-- Settles O57: a WAIT is a run in `IDLE` with no move of the host. -/
theorem waitOnlyAges : Obligations.WaitOnlyAges := by
  unfold Obligations.WaitOnlyAges
  intro e s duration _ hrun hp
  have hctrl : s.seq.ctrlOe = true := congrArg Prod.fst (idleReady_of_inRun hrun hp).enables
  obtain ⟨hseq, hdev, hedge⟩ :=
    runIn_silent_idle e (duration * e.waitUnit) (s := { s with host := [] }) rfl hp hctrl
  refine ⟨hseq, fun key => ?_, fun key => ?_, hedge, ?_⟩
  · rw [waitFor, hdev, ageDevice_iterate_mem]
  · rw [waitFor, hdev, find_ageDevice_iterate]
  · rw [waitFor, Nat.zero_mul, runIn]

end Sys2Proof.Machine
end

section
namespace Sys2Proof.Machine

/-! The report of VERIFY as counts over the readings (R185, R186). -/

/-- A reading differs from what was expected. -/
def diverges (expected : Byte) (x : Reading) : Bool := decide (x.actual ^^^ expected ≠ 0#8)

theorem recordReading_byteDiffCount (maxDiffs : Nat) (expected : Byte) (rep : DiffReport) (x : Reading) :
    (recordReading maxDiffs expected rep x).byteDiffCount =
      rep.byteDiffCount + if diverges expected x then 1 else 0 := by
  by_cases hx : x.actual ^^^ expected = 0#8 <;> simp [recordReading, diverges, hx]

/-- The three counters of a report, one reading at a time, from any report. -/
theorem foldl_recordReading_counts (maxDiffs : Nat) (expected : Byte) (readings : List Reading) (rep : DiffReport) :
    (readings.foldl (recordReading maxDiffs expected) rep).cellsCompared = rep.cellsCompared + readings.length ∧
    (readings.foldl (recordReading maxDiffs expected) rep).byteDiffCount =
      rep.byteDiffCount + readings.countP (diverges expected) ∧
    (readings.foldl (recordReading maxDiffs expected) rep).bitDiffCount =
      rep.bitDiffCount + (readings.map fun x => popcount (x.actual ^^^ expected)).sum := by
  induction readings generalizing rep with
  | nil => exact ⟨rfl, rfl, rfl⟩
  | cons x readings ih =>
    obtain ⟨hcells, hbytes, hbits⟩ := ih (recordReading maxDiffs expected rep x)
    rw [List.foldl_cons, hcells, hbytes, hbits]
    refine ⟨?_, ?_, ?_⟩
    · rw [recordReading, List.length_cons, Nat.add_right_comm, Nat.add_assoc]
    · rw [recordReading_byteDiffCount, List.countP_cons, Nat.add_right_comm, Nat.add_assoc]
    · rw [recordReading, List.map_cons, List.sum_cons, Nat.add_assoc]

theorem reportOf_cellsCompared (maxDiffs : Nat) (expected : Byte) (readings : List Reading) :
    (reportOf maxDiffs expected readings).cellsCompared = readings.length := by
  rw [reportOf, (foldl_recordReading_counts maxDiffs expected readings emptyReport).1, emptyReport, Nat.zero_add]

theorem reportOf_byteDiffCount (maxDiffs : Nat) (expected : Byte) (readings : List Reading) :
    (reportOf maxDiffs expected readings).byteDiffCount = readings.countP (diverges expected) := by
  rw [reportOf, (foldl_recordReading_counts maxDiffs expected readings emptyReport).2.1, emptyReport, Nat.zero_add]

theorem reportOf_bitDiffCount (maxDiffs : Nat) (expected : Byte) (readings : List Reading) :
    (reportOf maxDiffs expected readings).bitDiffCount =
      (readings.map fun x => popcount (x.actual ^^^ expected)).sum := by
  rw [reportOf, (foldl_recordReading_counts maxDiffs expected readings emptyReport).2.2, emptyReport, Nat.zero_add]

/-- Settles O59: a count and a sum over a list do not depend on its order. -/
theorem reportOrderIndependent : Obligations.ReportOrderIndependent := by
  unfold Obligations.ReportOrderIndependent
  intro maxDiffs expected xs ys hperm
  rw [reportOf_byteDiffCount, reportOf_byteDiffCount, reportOf_bitDiffCount, reportOf_bitDiffCount]
  exact ⟨hperm.countP_eq _, (hperm.map _).sum_eq⟩

/-- A value of `n` bits has at most `n` set bits. -/
theorem popcount_le {v : Byte} {n : Nat} (hn : n ≤ 8) (hv : v.toNat < 2 ^ n) : popcount v ≤ n := by
  calc popcount v ≤ (List.range 8).countP (fun i => decide (i < n)) :=
        List.countP_mono_left fun i _ hi => decide_eq_true (lt_of_getLsbD_of_lt hv hi)
    _ = n := by interval_cases n <;> rfl

theorem popcount_zero : popcount 0#8 = 0 := by decide

/-- A value that is not 0 has a set bit. -/
theorem popcount_pos {v : Byte} (hv : v ≠ 0#8) : 0 < popcount v := by
  rw [popcount, List.countP_pos_iff]
  by_contra hnone
  push Not at hnone
  refine hv (BitVec.eq_of_getLsbD_eq fun i hi => ?_)
  simpa using hnone i (List.mem_range.mpr hi)

theorem bits_le_eight (w : DataWidth) : w.bits ≤ 8 := by
  cases w <;> decide

/-- The XOR of two values of `W` bits has at most `W` set bits (R186). -/
theorem popcount_xor_le (c : Cfg) {a b : Byte} (ha : a.toNat < 2 ^ c.width.bits) (hb : b.toNat < 2 ^ c.width.bits) :
    popcount (a ^^^ b) ≤ c.width.bits :=
  popcount_le (bits_le_eight _) (by rw [BitVec.toNat_xor]; exact Nat.xor_lt_two_pow ha hb)

/-- The bounds between the two counts, reading by reading (R186). -/
theorem diff_counts_bounds (c : Cfg) {expected : Byte} (he : expected.toNat < 2 ^ c.width.bits)
    (readings : List Reading) (hx : ∀ x ∈ readings, x.actual.toNat < 2 ^ c.width.bits) :
    (readings.map fun x => popcount (x.actual ^^^ expected)).sum ≤
      c.width.bits * readings.countP (diverges expected) ∧
    readings.countP (diverges expected) ≤ (readings.map fun x => popcount (x.actual ^^^ expected)).sum := by
  induction readings with
  | nil => exact ⟨le_rfl, le_rfl⟩
  | cons x readings ih =>
    obtain ⟨hupper, hlower⟩ := ih fun y hy => hx y (List.mem_cons_of_mem _ hy)
    have hbits := popcount_xor_le c (hx x List.mem_cons_self) he
    rw [List.map_cons, List.sum_cons, List.countP_cons]
    by_cases hdiff : x.actual ^^^ expected = 0#8
    · simpa [diverges, hdiff, popcount_zero] using ⟨hupper, hlower⟩
    · have hpos := popcount_pos hdiff
      simp only [diverges, hdiff, ne_eq, not_false_eq_true, decide_true, if_true, Nat.mul_add, Nat.mul_one]
      omega

/-- Settles O58: the counters are counts over the readings, and the bounds hold of each reading. -/
theorem reportBounds : Obligations.ReportBounds := by
  unfold Obligations.ReportBounds
  intro c maxDiffs expected readings he hx
  obtain ⟨hupper, hlower⟩ := diff_counts_bounds c he readings hx
  rw [reportOf_byteDiffCount, reportOf_bitDiffCount, reportOf_cellsCompared]
  exact ⟨fun x hmem => ⟨BitVec.xor_eq_zero_iff, popcount_xor_le c (hx x hmem) he⟩, hupper, hlower,
    List.countP_le_length, rfl⟩

end Sys2Proof.Machine
end

section
namespace Sys2Proof.Machine

/-! The grid, FILL and VERIFY (R181, R185, R190). -/

theorem rows_le_256 {c : Cfg} (hv : c.Valid) : c.rows ≤ 256 := Nat.pow_le_pow_right (by decide) hv.1.2

theorem cols_le_256 {c : Cfg} (hv : c.Valid) : c.cols ≤ 256 := Nat.pow_le_pow_right (by decide) hv.2.1.2

/-- The traversal is the product of the two index ranges, in bytes (R181, R182). -/
theorem gridCells_eq (c : Cfg) : gridCells c =
    (List.range c.rows ×ˢ List.range c.cols).map (Prod.map (BitVec.ofNat 8) (BitVec.ofNat 8)) := by
  simp [gridCells, SProd.sprod, List.product, List.map_flatMap, Function.comp_def]

theorem length_gridCells (c : Cfg) : (gridCells c).length = c.rows * c.cols := by
  rw [gridCells_eq, List.length_map, List.length_product, List.length_range, List.length_range]

theorem mem_gridCells_iff {c : Cfg} (hv : c.Valid) (r k : Byte) :
    (r, k) ∈ gridCells c ↔ r.toNat < c.rows ∧ k.toNat < c.cols := by
  have hrows := rows_le_256 hv
  have hcols := cols_le_256 hv
  simp only [gridCells_eq, List.mem_map, Prod.exists, List.mem_product, List.mem_range, Prod.map_apply,
    Prod.mk.injEq]
  constructor
  · rintro ⟨i, j, ⟨hi, hj⟩, rfl, rfl⟩
    rw [BitVec.toNat_ofNat, BitVec.toNat_ofNat]
    exact ⟨(Nat.mod_le _ _).trans_lt hi, (Nat.mod_le _ _).trans_lt hj⟩
  · rintro ⟨hr, hk⟩
    exact ⟨_, _, ⟨hr, hk⟩, by simp, by simp⟩

/-- Settles O56: bytes tell indices below 256 apart, so the product of the two ranges keeps its length and stays free of
repetitions. -/
theorem gridCoveredOnce : Obligations.GridCoveredOnce := by
  unfold Obligations.GridCoveredOnce
  intro c hv
  refine ⟨length_gridCells c, ?_, mem_gridCells_iff hv⟩
  have hrows := rows_le_256 hv
  have hcols := cols_le_256 hv
  rw [gridCells_eq]
  refine (List.nodup_range.product List.nodup_range).map_on ?_
  rintro ⟨i, j⟩ hij ⟨i', j'⟩ hij' heq
  simp only [List.mem_product, List.mem_range] at hij hij'
  simp only [Prod.map_apply, Prod.mk.injEq] at heq ⊢
  obtain ⟨hrow, hcol⟩ := heq
  exact ⟨by bv_omega, by bv_omega⟩

/-- A cell holds the value, stored at most `bound` edges ago. -/
def HoldsSince (v : Byte) (bound : Nat) (d : Device) (key : Nat) : Prop :=
  Memory.stored d.mem key = some v ∧ ∃ age, Table.find d.ages key = some age ∧ age ≤ bound

/-- The edges of a WRITE make a cell that holds the value older, or store the value anew. -/
theorem issue_write_holds {e : Env} (hv : e.cfg.Valid) {s : State} (hs : IdleReady s) {r k v : Byte}
    (hfit : (Instr.write r k v).WellFormed e.cfg) (bound : Nat) (key : Nat)
    (h : HoldsSince v bound s.dev key ∨ key = cellKey r k) :
    HoldsSince v (bound + 11) (issue e (.write r k v) s).dev key := by
  obtain ⟨-, hstored, hage, hother⟩ := write_idleReady hv hs hfit
  rw [issue_eq hv (passesChecks_write hs.phase hfit)]
  by_cases hkey : key = cellKey r k
  · rw [hkey]
    exact ⟨hstored, 3, hage, by omega⟩
  · obtain ⟨hvalue, age, hold, hle⟩ := h.resolve_right hkey
    obtain ⟨hsame, holder⟩ := hother key hkey
    refine ⟨hsame.trans hvalue, age + 11, ?_, by omega⟩
    dsimp only
    rw [commandSteps, holder, hold]
    rfl

/-- The edges of a READ make a cell that holds the value older. -/
theorem issue_read_holds {e : Env} (hv : e.cfg.Valid) {s : State} (hs : IdleReady s) {r k v : Byte}
    (hfit : (Instr.read r k).WellFormed e.cfg) {bound key : Nat} (h : HoldsSince v bound s.dev key) :
    HoldsSince v (bound + (7 + e.cfg.settleCycles)) (issue e (.read r k) s).dev key := by
  obtain ⟨hvalue, age, hold, hle⟩ := h
  obtain ⟨u, -, -, -, -, -, hdev⟩ := issue_read hv hs hfit
  rw [hdev]
  refine ⟨?_, age + (7 + e.cfg.settleCycles), ?_, by omega⟩
  · dsimp only
    rw [ageDevice_iterate_mem, hvalue]
  · dsimp only
    rw [find_ageDevice_iterate, hold]
    rfl

/-- FILL over a list of cells: each of them, and each that held the pattern before, holds it at the end (R181). -/
theorem foldl_write_holds {e : Env} (hv : e.cfg.Valid) {v : Byte} (hfits : v.toNat < 2 ^ e.cfg.width.bits)
    (cells : List (Byte × Byte)) (hgrid : ∀ rc ∈ cells, rc.1.toNat < e.cfg.rows ∧ rc.2.toNat < e.cfg.cols)
    {s : State} (hs : IdleReady s) (bound : Nat) :
    IdleReady (cells.foldl (fun t rc => issue e (.write rc.1 rc.2 v) t) s) ∧
    ∀ key, HoldsSince v bound s.dev key ∨ (∃ rc ∈ cells, key = cellKey rc.1 rc.2) →
      HoldsSince v (bound + cells.length * 11) (cells.foldl (fun t rc => issue e (.write rc.1 rc.2 v) t) s).dev key := by
  induction cells generalizing s bound with
  | nil => simpa using hs
  | cons rc cells ih =>
    have hhead := hgrid rc List.mem_cons_self
    have hfit : (Instr.write rc.1 rc.2 v).WellFormed e.cfg := ⟨hhead.1, hhead.2, hfits⟩
    have hnext : IdleReady (issue e (.write rc.1 rc.2 v) s) := by
      obtain ⟨⟨hp, hpins, henables⟩, -⟩ := write_idleReady hv hs hfit
      rw [issue_eq hv (passesChecks_write hs.phase hfit)]
      exact ⟨hp, hpins, henables⟩
    obtain ⟨hidle, hholds⟩ := ih (fun c hc => hgrid c (List.mem_cons_of_mem _ hc)) hnext (bound + 11)
    refine ⟨hidle, fun key hkey => ?_⟩
    have hlength : bound + (rc :: cells).length * 11 = bound + 11 + cells.length * 11 := by
      rw [List.length_cons]
      omega
    rw [hlength]
    refine hholds key ?_
    rcases hkey with hbefore | ⟨c, hc, rfl⟩
    · exact .inl (issue_write_holds hv hs hfit bound key (.inl hbefore))
    · rcases List.mem_cons.mp hc with rfl | hc
      · exact .inl (issue_write_holds hv hs hfit bound _ (.inr rfl))
      · exact .inr ⟨c, hc, rfl⟩

theorem length_readCells (e : Env) (cells : List (Byte × Byte)) (s : State) :
    (readCells e cells s).1.length = cells.length := by
  induction cells generalizing s with
  | nil => rfl
  | cons rc cells ih => rw [readCells, List.length_cons, ih, List.length_cons]

/-- VERIFY over a list of cells that hold the value, all of them still fresh at the last READ (R82, R185). -/
theorem readCells_actual {e : Env} (hv : e.cfg.Valid) {v : Byte} (hfits : v.toNat < 2 ^ e.cfg.width.bits)
    (hset : SettleOK e) (hstuck : e.stuck = []) (cells : List (Byte × Byte))
    (hgrid : ∀ rc ∈ cells, rc.1.toNat < e.cfg.rows ∧ rc.2.toNat < e.cfg.cols) {s : State} (hs : IdleReady s) (bound : Nat)
    (hholds : ∀ rc ∈ cells, HoldsSince v bound s.dev (cellKey rc.1 rc.2))
    (hyoung : bound + cells.length * (7 + e.cfg.settleCycles) ≤ e.retention) :
    ∀ x ∈ (readCells e cells s).1, x.actual = v := by
  induction cells generalizing s bound with
  | nil => exact nofun
  | cons rc cells ih =>
    have hfit : (Instr.read rc.1 rc.2).WellFormed e.cfg := hgrid rc List.mem_cons_self
    rw [List.length_cons, Nat.succ_mul] at hyoung
    have hrest := ih (fun c hc => hgrid c (List.mem_cons_of_mem _ hc)) (issue_read_idleReady hv hs hfit)
      (bound + (7 + e.cfg.settleCycles))
      (fun c hc => issue_read_holds hv hs hfit (hholds c (List.mem_cons_of_mem _ hc))) (by omega)
    intro x hx
    rcases List.mem_cons.mp hx with rfl | hx
    · obtain ⟨hstored, age, hage, hle⟩ := hholds rc List.mem_cons_self
      exact (issue_read_fresh hv hs hfit hset (by rw [NotStuck, hstuck]; rfl) hstored hage (by omega) hfits).1
    · exact hrest x hx

/-- Readings that are all as expected count no difference (R186). -/
theorem reportOf_all_equal (maxDiffs : Nat) {expected : Byte} {readings : List Reading}
    (h : ∀ x ∈ readings, x.actual = expected) : (reportOf maxDiffs expected readings).byteDiffCount = 0 ∧
      (reportOf maxDiffs expected readings).bitDiffCount = 0 := by
  rw [reportOf_byteDiffCount, reportOf_bitDiffCount, List.countP_eq_zero, List.sum_eq_zero_iff]
  refine ⟨fun x hx => ?_, fun n hn => ?_⟩
  · simp [diverges, h x hx]
  · obtain ⟨x, hx, rfl⟩ := List.mem_map.mp hn
    rw [h x hx, BitVec.xor_self]
    exact popcount_zero

/-- Settles O60: after FILL every cell of the grid holds the pattern, stored at most `11` edges a cell ago, and each READ of VERIFY
adds `7 + settleCycles`. -/
theorem fillThenVerifyAgree : Obligations.FillThenVerifyAgree := by
  unfold Obligations.FillThenVerifyAgree
  intro e s pattern hv hrun hp hfits hset hstuck hretention
  have hgrid : ∀ rc ∈ gridCells e.cfg, rc.1.toNat < e.cfg.rows ∧ rc.2.toNat < e.cfg.cols :=
    fun rc hrc => (mem_gridCells_iff hv rc.1 rc.2).mp hrc
  obtain ⟨hidle, hholds⟩ := foldl_write_holds hv hfits (gridCells e.cfg) hgrid (idleReady_of_inRun hrun hp) 0
  have hyoung : 0 + (gridCells e.cfg).length * 11 + (gridCells e.cfg).length * (7 + e.cfg.settleCycles) ≤
      e.retention := by
    rw [length_gridCells, Nat.zero_add, ← Nat.mul_add, ← Nat.add_assoc]
    exact hretention
  have hactual := readCells_actual hv hfits hset hstuck (gridCells e.cfg) hgrid hidle _
    (fun rc hrc => hholds _ (.inr ⟨rc, hrc, rfl⟩)) hyoung
  obtain ⟨hbytes, hbits⟩ := reportOf_all_equal e.maxDiffs hactual
  exact ⟨hbytes, hbits, by rw [verify, reportOf_cellsCompared, length_readCells, length_gridCells]⟩

end Sys2Proof.Machine
end
